-- ==== Sys2Proof/Word.lean ====
section
/-! DEFINITION. The two value widths of the block: `byte` and `word` (R13, 00_scope.md). -/

namespace Sys2Proof

/-- A byte: 8 bits, 0..255 (R13). -/
abbrev Byte := BitVec 8

/-- A word: 16 bits, 0..65535 (R13). -/
abbrev Word := BitVec 16

end Sys2Proof
end

