-- ==== Sys2Proof/Config.lean ====
section
/-! DEFINITION. What an implementation fixes (the buffer capacities, R7 to R9), the wire constants (R10), and
the one value the spec leaves free (U1 of 93_implementation_defined.md). -/

namespace Sys2Proof

/-- The implementation parameters of R7 and R9, an input of the machine (R46; log 9): every operation that depends
on a capacity reads them from the instance it runs on. -/
structure Params where
  /-- `CAP`, the RX buffer capacity in bytes (R7). -/
  cap : Nat
  /-- `TXCAP`, the TX payload buffer capacity in bytes (R9). -/
  txcap : Nat
deriving DecidableEq, Repr

/-- `LMAX = CAP - 3`, the largest length byte DEC accepts (R8). -/
def Params.lmax (P : Params) : Nat := P.cap - 3

namespace Config

/-- The parameters of this hardware: `CAP = 128` (R7) and `TXCAP = 255` (R9). -/
def params : Params where
  cap := 128
  txcap := 255

/-- The start marker (R10). -/
def START : Byte := 0x7E#8

/-- The escape lead byte (R10). -/
def ESC : Byte := 0x7D#8

/-- The escape XOR mask (R10). -/
def XMASK : Byte := 0x20#8

/-- FREE VALUE (DESIGN CHOICE, log 3; safe): what the `k`-th read of a buffer byte not written since the last
hard reset returns. U1 allows any byte, drawn freshly on each read; nothing in Lean can evaluate this. -/
opaque unwrittenByte : Nat → Byte

end Config

end Sys2Proof
end

