-- ==== Sys2Proof/Machine/Operands.lean ====
section
/-! DEFINITION. The operand forms of a command word (R82, R83), and the packing and unpacking of two bytes in a
word (R12, R61). -/

namespace Sys2Proof.Machine

/-- The three operand forms of R83: none, a data byte, a buffer index. -/
inductive Form where
  | z
  | b
  | i
deriving DecidableEq, Repr

/-- The `op` field, bits 15..8 (R82). -/
def opField (w : Word) : Byte := w.extractLsb' 8 8

/-- The `imm8` field, bits 7..0 (R82). -/
def immField (w : Word) : Byte := w.extractLsb' 0 8

/-- Form B (R83): the data byte is `imm8` as it is. -/
def dataOperand (imm8 : Byte) : Byte := imm8

/-- Form I (R83): the index is `imm8` read as an unsigned number, no scaling, no sign. -/
def indexOperand (imm8 : Byte) : Nat := imm8.toNat

/-- `{hi, lo}`: the first-named byte in bits 15..8 (R12, R61). -/
def pack (hi lo : Byte) : Word := hi ++ lo

/-- `v[15:8]` (R12). -/
def hiByte (v : Word) : Byte := v.extractLsb' 8 8

/-- `v[7:0]` (R12). -/
def loByte (v : Word) : Byte := v.extractLsb' 0 8

/-- `zext_16(v)` of a byte (R13). -/
def zext16 (v : Byte) : Word := v.setWidth 16

end Sys2Proof.Machine
end

