-- ==== Sys2Proof/Syntax.lean ====
section
/-! DEFINITION. The commands of the block, one constructor per row of the opcode map (R84, 30_encoding.md), and the
pseudo-instructions (R88). -/

namespace Sys2Proof

/-- The 19 commands (R84). A data byte (form B, R83) is a byte; a buffer index (form I, R83) is an unsigned
number, which `WellFormed` bounds to what its 8-bit field can hold. -/
inductive Instr where
  | nop
  | srst
  | cfg
  | status
  | ckClr
  | ckByte (d : Byte)
  | ckRd
  | encClr
  | encLoad (d : Byte)
  | encSend
  | encRdcnt
  | encRdck
  | encRdbuf (i : Nat)
  | decNext
  | decAbort
  | decRdbuf (i : Nat)
  | decRdck
  | decRdcnt
  | decClrz
deriving DecidableEq, Repr

/-- The pseudo-instructions of R88. -/
inductive Pseudo where
  | ckSeq (bs : List Byte)
  | encFrame (bs : List Byte)
  | encAck
  | encNak
  | decTake
deriving DecidableEq, Repr

end Sys2Proof
end

