-- ==== Sys2Proof/WellFormed.lean ====
section
/-! DEFINITION. The checks on syntax and parameters: an index operand fits its 8-bit field (R82, R83), the
capacities lie in their ranges (R7, R9), a frame's payload fits the TX buffer (R88). -/

namespace Sys2Proof

/-- An index operand fits `imm8` (R82, R83); every other command is well formed as it stands. -/
def Instr.wf : Instr → Bool
  | .encRdbuf i => decide (i < 256)
  | .decRdbuf i => decide (i < 256)
  | .nop | .srst | .cfg | .status | .ckClr | .ckByte _ | .ckRd | .encClr | .encLoad _ | .encSend
  | .encRdcnt | .encRdck | .decNext | .decAbort | .decRdck | .decRdcnt | .decClrz => true

/-- A command that has an encoding. -/
abbrev WellFormed (i : Instr) : Prop := i.wf = true

/-- `4 <= CAP <= 256` (R7) and `1 <= TXCAP <= 255` (R9). -/
def Params.wf (P : Params) : Bool :=
  decide (4 ≤ P.cap) && decide (P.cap ≤ 256) && decide (1 ≤ P.txcap) && decide (P.txcap ≤ 255)

/-- `ENC_FRAME b1, ..., bn` asks `n <= TXCAP` (R88). -/
def Pseudo.wf (P : Params) : Pseudo → Bool
  | .encFrame bs => decide (bs.length ≤ P.txcap)
  | .ckSeq _ | .encAck | .encNak | .decTake => true

end Sys2Proof
end

