-- ==== Sys2Proof/Decode.lean ====
section
/-! DEFINITION. The command word: the decoder, total on all 65536 words and rejecting by name (R84, R85), the
encoder, and the opcode map as a table of matches and masks (R84). -/

namespace Sys2Proof

open Machine (opField immField dataOperand indexOperand Form pack)

/-- Why a word is no command. Both are the same illegal command to the host, ERR_ILLEGAL (R194; log 20). -/
inductive DecodeError where
  /-- `op` is not in the opcode map. -/
  | unassignedOp (op : Byte)
  /-- A form Z command whose `imm8` is not 0. -/
  | operandNotZero (op imm8 : Byte)
deriving DecidableEq, Repr

/-- Form Z takes no operand: `imm8` must be 0x00 (R83). -/
def decodeZ (op imm8 : Byte) (i : Instr) : Except DecodeError Instr :=
  if imm8 = 0#8 then .ok i else .error (.operandNotZero op imm8)

/-- The decoder: `op` alone names the command, and `imm8` is checked for form Z (R82, R84). -/
def decode (w : Word) : Except DecodeError Instr :=
  let op := opField w
  let imm8 := immField w
  match op.toNat with
  | 0x00 => decodeZ op imm8 .nop
  | 0x01 => decodeZ op imm8 .srst
  | 0x02 => decodeZ op imm8 .cfg
  | 0x03 => decodeZ op imm8 .status
  | 0x10 => decodeZ op imm8 .ckClr
  | 0x11 => .ok (.ckByte (dataOperand imm8))
  | 0x12 => decodeZ op imm8 .ckRd
  | 0x20 => decodeZ op imm8 .encClr
  | 0x21 => .ok (.encLoad (dataOperand imm8))
  | 0x22 => decodeZ op imm8 .encSend
  | 0x23 => decodeZ op imm8 .encRdcnt
  | 0x24 => decodeZ op imm8 .encRdck
  | 0x25 => .ok (.encRdbuf (indexOperand imm8))
  | 0x30 => decodeZ op imm8 .decNext
  | 0x31 => decodeZ op imm8 .decAbort
  | 0x32 => .ok (.decRdbuf (indexOperand imm8))
  | 0x33 => decodeZ op imm8 .decRdck
  | 0x34 => decodeZ op imm8 .decRdcnt
  | 0x35 => decodeZ op imm8 .decClrz
  | _ => .error (.unassignedOp op)

/-- The opcode of a command (R84). -/
def opcodeOf : Instr → Byte
  | .nop => 0x00#8
  | .srst => 0x01#8
  | .cfg => 0x02#8
  | .status => 0x03#8
  | .ckClr => 0x10#8
  | .ckByte _ => 0x11#8
  | .ckRd => 0x12#8
  | .encClr => 0x20#8
  | .encLoad _ => 0x21#8
  | .encSend => 0x22#8
  | .encRdcnt => 0x23#8
  | .encRdck => 0x24#8
  | .encRdbuf _ => 0x25#8
  | .decNext => 0x30#8
  | .decAbort => 0x31#8
  | .decRdbuf _ => 0x32#8
  | .decRdck => 0x33#8
  | .decRdcnt => 0x34#8
  | .decClrz => 0x35#8

/-- The operand byte of a command: the data byte, the index, or 0x00 (R83). -/
def operandOf : Instr → Byte
  | .ckByte d => d
  | .encLoad d => d
  | .encRdbuf i => BitVec.ofNat 8 i
  | .decRdbuf i => BitVec.ofNat 8 i
  | .nop | .srst | .cfg | .status | .ckClr | .ckRd | .encClr | .encSend | .encRdcnt | .encRdck
  | .decNext | .decAbort | .decRdck | .decRdcnt | .decClrz => 0x00#8

/-- The operand form of a command (R84). -/
def formOf : Instr → Form
  | .ckByte _ | .encLoad _ => .b
  | .encRdbuf _ | .decRdbuf _ => .i
  | .nop | .srst | .cfg | .status | .ckClr | .ckRd | .encClr | .encSend | .encRdcnt | .encRdck
  | .decNext | .decAbort | .decRdck | .decRdcnt | .decClrz => .z

/-- The encoder: `op` in bits 15..8, the operand byte in bits 7..0 (R82). -/
def encode (i : Instr) : Word := pack (opcodeOf i) (operandOf i)

/-- One row of R84: a word `w` belongs to it when `w AND mask = pattern`. -/
structure OpRow where
  pattern : Word
  mask : Word
  form : Form
deriving DecidableEq, Repr

/-- `w AND mask = match` (R84). -/
def OpRow.accepts (r : OpRow) (w : Word) : Bool := decide (w &&& r.mask = r.pattern)

/-- The opcode map of R84, row by row. -/
def opcodeMap : List OpRow :=
  [ ⟨0x0000#16, 0xFFFF#16, .z⟩, ⟨0x0100#16, 0xFFFF#16, .z⟩, ⟨0x0200#16, 0xFFFF#16, .z⟩, ⟨0x0300#16, 0xFFFF#16, .z⟩,
    ⟨0x1000#16, 0xFFFF#16, .z⟩, ⟨0x1100#16, 0xFF00#16, .b⟩, ⟨0x1200#16, 0xFFFF#16, .z⟩,
    ⟨0x2000#16, 0xFFFF#16, .z⟩, ⟨0x2100#16, 0xFF00#16, .b⟩, ⟨0x2200#16, 0xFFFF#16, .z⟩, ⟨0x2300#16, 0xFFFF#16, .z⟩,
    ⟨0x2400#16, 0xFFFF#16, .z⟩, ⟨0x2500#16, 0xFF00#16, .i⟩,
    ⟨0x3000#16, 0xFFFF#16, .z⟩, ⟨0x3100#16, 0xFFFF#16, .z⟩, ⟨0x3200#16, 0xFF00#16, .i⟩, ⟨0x3300#16, 0xFFFF#16, .z⟩,
    ⟨0x3400#16, 0xFFFF#16, .z⟩, ⟨0x3500#16, 0xFFFF#16, .z⟩ ]

/-- The words of a form: the whole word for form Z, the opcode alone for forms B and I (R84). -/
def formMask : Form → Word
  | .z => 0xFFFF#16
  | .b | .i => 0xFF00#16

/-- The row of R84 a command belongs to. -/
def rowOf (i : Instr) : OpRow where
  pattern := pack (opcodeOf i) 0x00#8
  mask := formMask (formOf i)
  form := formOf i

/-- Does the decoder read a command from this word? -/
def isCommand (w : Word) : Bool :=
  match decode w with
  | .ok _ => true
  | .error _ => false

/-- The instruction the decoder reads from an instruction of `nbits` bits `w`, as the opcode table numbers
them. A command is one whole 16-bit word on the command port (R21, R82), so no byte order enters. -/
def decodeTableWord (nbits w : Nat) : Option Instr :=
  match decode (BitVec.ofNat 16 (w % 2 ^ nbits)) with
  | .ok i => some i
  | .error _ => none

end Sys2Proof
end

