-- ==== Sys2Proof/Machine/Fletcher.lean ====
section
/-! DEFINITION. The Fletcher-16 checksum as a pure function (R100 to R105, 41_checksum.md). -/

namespace Sys2Proof.Machine

/-- `(t >= 255) ? t - 255 : t` on naturals (R101): "wrapping at exactly 255 to 0". -/
def wrap255 (t : Nat) : Nat := if 255 ≤ t then t - 255 else t

/-- `fl_step((s1, s2), d)` (R101): `s2` takes the UPDATED `s1`. -/
def flStep (s : Byte × Byte) (d : Byte) : Byte × Byte :=
  let a := wrap255 (s.1.toNat + d.toNat)
  (BitVec.ofNat 8 a, BitVec.ofNat 8 (wrap255 (s.2.toNat + a)))

/-- The accumulators after the bytes of a sequence, first byte first, from given accumulators. -/
def flFold (s : Byte × Byte) (bs : List Byte) : Byte × Byte := bs.foldl flStep s

/-- `fletcher16(seq)` (R103): both sums start at 0, the result is `{s1, s2}`. -/
def fletcher16 (bs : List Byte) : Word :=
  let s := flFold (0#8, 0#8) bs
  pack s.1 s.2

/-- The end-around carry addition of R105, on 8-bit values. -/
def carryAdd (s d : Byte) : Byte :=
  let s1 := if 255 - s.toNat < d.toNat then s + 1#8 else s
  let t := s1 + d
  if t = 255#8 then 0#8 else t

/-- The 8-bit formulation of one byte step (R105). `flStep` is the normative one. -/
def flStepCarry (s : Byte × Byte) (d : Byte) : Byte × Byte :=
  let a := carryAdd s.1 d
  (a, carryAdd s.2 a)

end Sys2Proof.Machine
end

