-- ==== Sys2Proof/Machine/State.lean ====
section
/-! DEFINITION. The block's registers and buffers (R28, R30, R36, 10_state.md), the ports, the inputs and the
observation as plain data (R18, R46; log 1, 5, 6), the reset state (R241), and the two reason types of a stop. -/

namespace Sys2Proof.Machine

/-- `enc_phase` (R34): the next byte ENC emits. Code 7 is never held and has no constructor (U4; log 8). -/
inductive EncPhase where
  | idle | start | len | data | esc2 | ck1 | ck2
deriving DecidableEq, Repr

/-- `dec_phase` (R40): what DEC does with the next received byte. Code 7 is never held and has no
constructor (U4; log 8). -/
inductive DecPhase where
  | hunt | len | data | esc | ck1 | ck2 | hold
deriving DecidableEq, Repr

/-- `dec_result` (R41): the outcome of the last decode. -/
inductive DecResult where
  | none | ok | ckfail | lenovf
deriving DecidableEq, Repr

/-- The error codes of R211; codes 6 and 7 are never produced and have no constructor (U5; log 8). -/
inductive ErrCode where
  | ok | illegal | busy | full | range | state
deriving DecidableEq, Repr

/-- A command's response, `rsp_err` and `rsp_data` (R86). -/
structure Response where
  err : ErrCode
  data : Word
deriving DecidableEq, Repr

/-- The bytes of one buffer written since the last hard reset, as (index, byte) pairs with rising indices. An
index that is not listed has not been written and reads as a free value (U1; log 3, log 12). -/
abbrev Memory := List Host.Cell

/-- The registers of R28 and the two buffers of R30 and R36. -/
structure Block where
  /-- `ck_s1` (R29) -/
  ckS1 : Byte
  /-- `ck_s2` (R29) -/
  ckS2 : Byte
  /-- `txlen` (R31) -/
  txlen : Byte
  /-- `enc_idx` (R32) -/
  encIdx : Byte
  /-- `enc_ck` (R33) -/
  encCk : Word
  /-- `enc_phase` (R34) -/
  encPhase : EncPhase
  /-- `dec_phase` (R40) -/
  decPhase : DecPhase
  /-- `dec_result` (R41) -/
  decResult : DecResult
  /-- `dec_len` (R37) -/
  decLen : Byte
  /-- `dec_idx` (R38) -/
  decIdx : Byte
  /-- `dec_s1` (R39) -/
  decS1 : Byte
  /-- `dec_s2` (R39) -/
  decS2 : Byte
  /-- `zlen` (R42) -/
  zlen : Bool
  /-- `RX` (R36) -/
  rx : Memory
  /-- `TX` (R30) -/
  tx : Memory
deriving DecidableEq, Repr

/-- One turn of the schedule: which agent may take the next atomic step (R18, R20, R24; log 1, log 7). -/
inductive Turn where
  /-- HOST presents a command word (R21). -/
  | cmd (w : Word)
  /-- RXL offers its next byte (R22). -/
  | rxl
  /-- TXL accepts a byte (R23). -/
  | txl
  /-- `rst_n` is driven to 0: a hard reset (R240). -/
  | rstLow
  /-- `rst_n` returns to 1 (R240). -/
  | rstHigh
deriving DecidableEq, Repr

/-- The block, its ports, its inputs and the observation of R18. -/
structure State where
  /-- The capacities of this instance: an input of the model (R7, R9, R46), which no step writes (log 9). -/
  params : Params
  /-- The registers and buffers. -/
  blk : Block
  /-- The response port: `some r` right after a HOST step (`rsp_valid = 1`), else `none` (R21; log 5). -/
  rsp : Option Response
  /-- The input `rst_n` (R23, R240; log 7). -/
  rstN : Bool
  /-- The turns still to come: the interleaving and HOST's commands, inputs by R46 (log 1). -/
  sched : List Turn
  /-- The bytes RXL has still to offer, an input by R46 (U6; log 21). -/
  rxq : List Byte
  /-- The commands taken, each with its response, oldest first (R18; log 6). -/
  cmdLog : List (Word × Response)
  /-- The bytes accepted from RXL, oldest first (R18; log 6). -/
  rxLog : List Byte
  /-- The bytes handed to TXL, oldest first (R18; log 6). -/
  txLog : List Byte
  /-- The model's own counter of free values drawn (U1; log 3). -/
  freeIdx : Nat
deriving DecidableEq, Repr

/-- The two buffers (R67). -/
inductive BufName where
  | rx | tx
deriving DecidableEq, Repr

/-- Why the machine stops. The block itself has no fault state (R210). -/
inductive Fault where
  /-- Raised by an access to an index at or above the buffer's capacity, which does not exist (R67). No state
  reached from reset raises it, since no rule forms such an index. Safe: it stops where the spec claims
  nothing (U4; log 4). -/
  | noSuchIndex (buf : BufName) (i : Nat)
deriving DecidableEq, Repr

/-- Why an instruction has no meaning. -/
inductive Refusal where
  /-- Raised by a dispatch arm whose instruction has no meaning yet; no arm of this model raises it. Safe: it
  stops. -/
  | notModelled (mnemonic : String)
deriving DecidableEq, Repr

/-- The block after a hard reset (R28, R241): every register at its reset value, no buffer byte written. -/
def Block.reset : Block where
  ckS1 := 0x00#8
  ckS2 := 0x00#8
  txlen := 0x00#8
  encIdx := 0x00#8
  encCk := 0x0000#16
  encPhase := .idle
  decPhase := .hunt
  decResult := .none
  decLen := 0x00#8
  decIdx := 0x00#8
  decS1 := 0x00#8
  decS2 := 0x00#8
  zlen := false
  rx := []
  tx := []

/-- The machine right after reset (R241), at this hardware's capacities (R7, R9; log 9): `rst_n` back at 1, no response yet, no input placed, nothing observed
(the ports and inputs are DESIGN CHOICE: log 1, 5, 6, 7). -/
def State.reset : State where
  params := Config.params
  blk := Block.reset
  rsp := none
  rstN := true
  sched := []
  rxq := []
  cmdLog := []
  rxLog := []
  txLog := []
  freeIdx := 0

end Sys2Proof.Machine
end

