-- ==== Sys2Proof/Machine/Ops.lean ====
section
/-! DEFINITION. The named operations over the buffers, the registers and the ports: reading and writing a buffer byte
(R14, R63, R67), answering a command (R14, R86), raising an error (R212), handing a byte to TXL, and the two
resets (R240, R242). -/

namespace Sys2Proof.Machine

/-- The byte a buffer holds at an index, if one was written there since the last hard reset. -/
def Memory.read? : Memory → Nat → Option Byte
  | [], _ => none
  | (a, v) :: m, i => if a = i then some v else Memory.read? m i

/-- Store one byte, keeping the indices rising. -/
def Memory.write : Memory → Nat → Byte → Memory
  | [], i, v => [(i, v)]
  | (a, u) :: m, i, v =>
    if a = i then (i, v) :: m
    else if i < a then (i, v) :: (a, u) :: m
    else (a, u) :: Memory.write m i v

/-- The canonical form of a buffer: indices strictly rising. Every listed byte was written, so no entry can
equal the free value an unlisted index reads as (log 12). -/
def Memory.wf : Memory → Bool
  | [] => true
  | [_] => true
  | (a, _) :: (b, v) :: m => decide (a < b) && Memory.wf ((b, v) :: m)

/-- Every listed index lies below a capacity (R67). -/
def Memory.below (cap : Nat) (m : Memory) : Bool := m.all fun c => decide (c.1 < cap)

/-- The outcome of a step of RXL or TXL, or of a part of a step. -/
abbrev Result (α : Type) := Except Fault α

/-- Go on with the state of a part that succeeded; stop with its fault otherwise. -/
def onOk {α β : Type} (r : Result α) (k : α → Result β) : Result β :=
  match r with
  | .ok a => k a
  | .error f => .error f

/-- The outcome of a step whose last part is `r`. -/
def settle (r : Result State) : Host.Outcome State Fault Refusal :=
  match r with
  | .ok s => .next s
  | .error f => .fault f

/-- The state with other registers and buffers. -/
def State.withBlk (s : State) (b : Block) : State := { s with blk := b }

/-- `respond(v)` (R14): the command completes with ERR_OK and data `v`. -/
def respond (v : Word) (s : State) : State := { s with rsp := some ⟨.ok, v⟩ }

/-- Taking an error, `raise ERR_X()` (R14, R212): the command completes with the code and data 0x0000, and no
register or buffer byte is written. There is no trap entry to model and no return (R218, R219). -/
def raiseErr (e : ErrCode) (s : State) : State := { s with rsp := some ⟨e, 0x0000#16⟩ }

/-- `emit(b)` (R14): the byte goes to the TX line. -/
def emit (b : Byte) (s : State) : State := { s with txLog := s.txLog ++ [b] }

/-- RXL hands over the byte `w` and keeps `rest` (R22). -/
def acceptByte (w : Byte) (rest : List Byte) (s : State) : State :=
  { s with rxq := rest, rxLog := s.rxLog ++ [w] }

/-- The byte at index `i` of a buffer: the byte written there, or, where none was written since the last hard
reset, the next free value (U1: any byte, drawn freshly on each read; log 3). -/
def readCell (m : Memory) (i : Nat) (s : State) : Byte × State :=
  match Memory.read? m i with
  | some v => (v, s)
  | none => (Config.unwrittenByte s.freeIdx, { s with freeIdx := s.freeIdx + 1 })

/-- `MemRead(RX+i, 1)` (R14, R67). -/
def readRx (i : Nat) (s : State) : Result (Byte × State) :=
  if i < s.params.cap then .ok (readCell s.blk.rx i s) else .error (.noSuchIndex .rx i)

/-- `MemRead(TX+i, 1)` (R14, R67). -/
def readTx (i : Nat) (s : State) : Result (Byte × State) :=
  if i < s.params.txcap then .ok (readCell s.blk.tx i s) else .error (.noSuchIndex .tx i)

/-- `MemWrite(RX+i, 1, v)` (R14, R67). -/
def writeRx (i : Nat) (v : Byte) (s : State) : Result State :=
  if i < s.params.cap then .ok (s.withBlk { s.blk with rx := Memory.write s.blk.rx i v })
  else .error (.noSuchIndex .rx i)

/-- `MemWrite(TX+i, 1, v)` (R14, R67). -/
def writeTx (i : Nat) (v : Byte) (s : State) : Result State :=
  if i < s.params.txcap then .ok (s.withBlk { s.blk with tx := Memory.write s.blk.tx i v })
  else .error (.noSuchIndex .tx i)

/-- `[MemRead(TX+j, 1) for j in i .. i+n-1]`, one byte at a time within one step (R63, R127). -/
def readTxSpan : Nat → Nat → State → Result (List Byte × State)
  | 0, _, s => .ok ([], s)
  | n + 1, i, s =>
    onOk (readTx i s) fun (b, s1) =>
      onOk (readTxSpan n (i + 1) s1) fun (bs, s2) => .ok (b :: bs, s2)

/-- The register writes of SRST (R191): every register at its reset value, RX and TX unchanged (R242). -/
def Block.softReset (b : Block) : Block where
  ckS1 := 0x00#8
  ckS2 := 0x00#8
  txlen := 0x00#8
  encIdx := 0x00#8
  encCk := 0x0000#16
  encPhase := .idle
  decPhase := .hunt
  decResult := .none
  decLen := 0x00#8
  decIdx := 0x00#8
  decS1 := 0x00#8
  decS2 := 0x00#8
  zlen := false
  rx := b.rx
  tx := b.tx

/-- `rst_n` driven to 0 (R240, R241): every register at its reset value, the buffers unspecified, `rst_n` low.
Nothing is answered, accepted or emitted. -/
def hardReset (s : State) : State := { s with blk := Block.reset, rstN := false }

end Sys2Proof.Machine
end

