-- ==== Sys2Proof/Machine/Ck.lean ====
section
/-! DEFINITION. The commands of the checksum unit CK (section 2 of 41_checksum.md). -/

namespace Sys2Proof.Machine

/-- The standalone accumulators (R29). -/
def Block.ckSums (b : Block) : Byte × Byte := (b.ckS1, b.ckS2)

/-- The block with other standalone accumulators. -/
def Block.withCk (b : Block) (s : Byte × Byte) : Block := { b with ckS1 := s.1, ckS2 := s.2 }

/-- CK_CLR (R106). -/
def execCkClr (s : State) : Host.Outcome State Fault Refusal :=
  .next (respond 0x0000#16 (s.withBlk (s.blk.withCk (0x00#8, 0x00#8))))

/-- CK_BYTE (R107). -/
def execCkByte (d : Byte) (s : State) : Host.Outcome State Fault Refusal :=
  .next (respond 0x0000#16 (s.withBlk (s.blk.withCk (flStep s.blk.ckSums d))))

/-- CK_RD (R108). -/
def execCkRd (s : State) : Host.Outcome State Fault Refusal :=
  .next (respond (pack s.blk.ckS1 s.blk.ckS2) s)

end Sys2Proof.Machine
end

