-- ==== Sys2Proof/Machine/Dec.lean ====
section
/-! DEFINITION. The commands of the decoder unit DEC (section 3 of 43_decoder.md). -/

namespace Sys2Proof.Machine

/-- Leave the attempt or the held outcome: `dec_result <- NONE; dec_phase <- HUNT` (R170, R172). RX, the
counters, the sums and `zlen` stay. -/
def Block.toHunt (b : Block) : Block := { b with decResult := .none, decPhase := .hunt }

/-- DEC_NEXT (R170): ERR_STATE outside HOLD. -/
def execDecNext (s : State) : Host.Outcome State Fault Refusal :=
  if s.blk.decPhase ≠ .hold then .next (raiseErr .state s)
  else .next (respond 0x0000#16 (s.withBlk s.blk.toHunt))

/-- DEC_ABORT (R172): legal in every phase. -/
def execDecAbort (s : State) : Host.Outcome State Fault Refusal :=
  .next (respond 0x0000#16 (s.withBlk s.blk.toHunt))

/-- DEC_RDBUF i (R173): ERR_RANGE at or above the capacity. -/
def execDecRdbuf (i : Nat) (s : State) : Host.Outcome State Fault Refusal :=
  settle (if s.params.cap ≤ i then .ok (raiseErr .range s)
    else onOk (readRx i s) fun (b, t) => .ok (respond (zext16 b) t))

/-- DEC_RDCK (R174). -/
def execDecRdck (s : State) : Host.Outcome State Fault Refusal :=
  .next (respond (pack s.blk.decS1 s.blk.decS2) s)

/-- DEC_RDCNT (R175). -/
def execDecRdcnt (s : State) : Host.Outcome State Fault Refusal :=
  .next (respond (pack s.blk.decLen s.blk.decIdx) s)

/-- DEC_CLRZ (R176). -/
def execDecClrz (s : State) : Host.Outcome State Fault Refusal :=
  .next (respond 0x0000#16 (s.withBlk { s.blk with zlen := false }))

end Sys2Proof.Machine
end

