-- ==== Sys2Proof/Machine/Flags.lean ====
section
/-! DEFINITION. The encodings of phases, results and error codes (R34, R40, R41, R211), the STATUS word (R44, R193) and
the output levels (R22, R23, R43, R240). -/

namespace Sys2Proof.Machine

/-- `enc_phase` as its 3-bit code (R34). -/
def EncPhase.code : EncPhase → BitVec 3
  | .idle => 0#3
  | .start => 1#3
  | .len => 2#3
  | .data => 3#3
  | .esc2 => 4#3
  | .ck1 => 5#3
  | .ck2 => 6#3

/-- `dec_phase` as its 3-bit code (R40). -/
def DecPhase.code : DecPhase → BitVec 3
  | .hunt => 0#3
  | .len => 1#3
  | .data => 2#3
  | .esc => 3#3
  | .ck1 => 4#3
  | .ck2 => 5#3
  | .hold => 6#3

/-- `dec_result` as its 2-bit code (R41). -/
def DecResult.code : DecResult → BitVec 2
  | .none => 0#2
  | .ok => 1#2
  | .ckfail => 2#2
  | .lenovf => 3#2

/-- `rsp_err[2:0]` (R211). -/
def ErrCode.code : ErrCode → BitVec 3
  | .ok => 0#3
  | .illegal => 1#3
  | .busy => 2#3
  | .full => 3#3
  | .range => 4#3
  | .state => 5#3

/-- `enc_busy`, the derived value `enc_phase != IDLE` (R35). -/
def Block.encBusy (b : Block) : Bool := decide (b.encPhase ≠ .idle)

/-- FRDY, `dec_phase == HOLD` (R44). -/
def Block.frdy (b : Block) : Bool := decide (b.decPhase = .hold)

/-- `STATUS = {0000, EBUSY, EPH, 0, FRDY, ZLEN, DRES, DPH}` (R44). -/
def Block.status (b : Block) : Word :=
  0b0000#4 ++ BitVec.ofBool b.encBusy ++ b.encPhase.code ++ 0#1 ++ BitVec.ofBool b.frdy
    ++ BitVec.ofBool b.zlen ++ b.decResult.code ++ b.decPhase.code

/-- `cmd_ready`: 0 in reset (R240); HOST never waits otherwise (R228). -/
def cmdReady (s : State) : Bool := s.rstN

/-- `rx_ready`: 1 exactly when `dec_phase != HOLD` and the block is not in reset (R22). -/
def rxReady (s : State) : Bool := s.rstN && decide (s.blk.decPhase ≠ .hold)

/-- `tx_valid`: 1 exactly when `enc_phase != IDLE` and the block is not in reset (R23). -/
def txValid (s : State) : Bool := s.rstN && s.blk.encBusy

/-- `irq_frame`: 1 exactly when `dec_phase = HOLD` (R43), 0 in reset (R240). -/
def irqFrame (s : State) : Bool := s.rstN && s.blk.frdy

/-- `rsp_valid`: a response is on the port right after a HOST step (R21; log 5). -/
def rspValid (s : State) : Bool := s.rsp.isSome

end Sys2Proof.Machine
end

