-- ==== Sys2Proof/Machine/Device.lean ====
section
/-! DEFINITION. The device-level commands (44_device.md). -/

namespace Sys2Proof.Machine

/-- NOP (R190). -/
def execNop (s : State) : Host.Outcome State Fault Refusal := .next (respond 0x0000#16 s)

/-- SRST (R191). -/
def execSrst (s : State) : Host.Outcome State Fault Refusal :=
  .next (respond 0x0000#16 (s.withBlk s.blk.softReset))

/-- `{CAP - 1, TXCAP}`, each an 8-bit field (R192). -/
def cfgWord (P : Params) : Word := pack (BitVec.ofNat 8 (P.cap - 1)) (BitVec.ofNat 8 P.txcap)

/-- CFG (R192). -/
def execCfg (s : State) : Host.Outcome State Fault Refusal := .next (respond (cfgWord s.params) s)

/-- STATUS (R193). -/
def execStatus (s : State) : Host.Outcome State Fault Refusal := .next (respond s.blk.status s)

end Sys2Proof.Machine
end

