-- ==== Sys2Proof/Machine/Enc.lean ====
section
/-! DEFINITION. The commands of the encoder unit ENC (section 2 of 42_encoder.md). -/

namespace Sys2Proof.Machine

/-- The check of the commands that are refused while a frame is being emitted (R125 to R127): ERR_BUSY first,
before anything is written (R212, R214). -/
def unlessBusy (s : State) (k : Result State) : Result State :=
  if s.blk.encPhase ≠ .idle then .ok (raiseErr .busy s) else k

/-- ENC_CLR (R125). -/
def execEncClr (s : State) : Host.Outcome State Fault Refusal :=
  settle (unlessBusy s (.ok (respond 0x0000#16 (s.withBlk { s.blk with txlen := 0x00#8 }))))

/-- ENC_LOAD d (R126): ERR_BUSY before ERR_FULL (R214). -/
def execEncLoad (d : Byte) (s : State) : Host.Outcome State Fault Refusal :=
  settle (unlessBusy s
    (if s.blk.txlen.toNat = s.params.txcap then .ok (raiseErr .full s)
     else onOk (writeTx s.blk.txlen.toNat d s) fun t =>
       .ok (respond 0x0000#16 (t.withBlk { t.blk with txlen := t.blk.txlen + 1#8 }))))

/-- ENC_SEND (R127): the checksum of the length byte and the whole payload, within one step. -/
def execEncSend (s : State) : Host.Outcome State Fault Refusal :=
  settle (unlessBusy s
    (onOk (readTxSpan s.blk.txlen.toNat 0 s) fun (bs, t) =>
      .ok (respond 0x0000#16 (t.withBlk { t.blk with
        encCk := fletcher16 (s.blk.txlen :: bs)
        encIdx := 0x00#8
        encPhase := .start }))))

/-- ENC_RDCNT (R128). -/
def execEncRdcnt (s : State) : Host.Outcome State Fault Refusal :=
  .next (respond (pack s.blk.encIdx s.blk.txlen) s)

/-- ENC_RDCK (R129). -/
def execEncRdck (s : State) : Host.Outcome State Fault Refusal := .next (respond s.blk.encCk s)

/-- ENC_RDBUF i (R130): ERR_RANGE at or above the capacity. -/
def execEncRdbuf (i : Nat) (s : State) : Host.Outcome State Fault Refusal :=
  settle (if s.params.txcap ≤ i then .ok (raiseErr .range s)
    else onOk (readTx i s) fun (b, t) => .ok (respond (zext16 b) t))

end Sys2Proof.Machine
end

