-- ==== Sys2Proof/Machine/Dispatch.lean ====
section
/-! DEFINITION. One command carried out: each command's arm calls its meaning. -/

namespace Sys2Proof.Machine

/-- Carry out one command (R84). -/
def exec (i : Instr) (s : State) : Host.Outcome State Fault Refusal :=
  match i with
  | .nop => Sys2Proof.Machine.execNop s
  | .srst => Sys2Proof.Machine.execSrst s
  | .cfg => Sys2Proof.Machine.execCfg s
  | .status => Sys2Proof.Machine.execStatus s
  | .ckClr => Sys2Proof.Machine.execCkClr s
  | .ckByte d => Sys2Proof.Machine.execCkByte d s
  | .ckRd => Sys2Proof.Machine.execCkRd s
  | .encClr => Sys2Proof.Machine.execEncClr s
  | .encLoad d => Sys2Proof.Machine.execEncLoad d s
  | .encSend => Sys2Proof.Machine.execEncSend s
  | .encRdcnt => Sys2Proof.Machine.execEncRdcnt s
  | .encRdck => Sys2Proof.Machine.execEncRdck s
  | .encRdbuf k => Sys2Proof.Machine.execEncRdbuf k s
  | .decNext => Sys2Proof.Machine.execDecNext s
  | .decAbort => Sys2Proof.Machine.execDecAbort s
  | .decRdbuf k => Sys2Proof.Machine.execDecRdbuf k s
  | .decRdck => Sys2Proof.Machine.execDecRdck s
  | .decRdcnt => Sys2Proof.Machine.execDecRdcnt s
  | .decClrz => Sys2Proof.Machine.execDecClrz s

end Sys2Proof.Machine
end

