-- ==== Sys2Proof/Machine/Rxl.lean ====
section
/-! DEFINITION. The RXL step: one received byte (section 1 of 43_decoder.md). -/

namespace Sys2Proof.Machine

/-- DEC's running accumulators (R39). -/
def Block.decSums (b : Block) : Byte × Byte := (b.decS1, b.decS2)

/-- Phase LEN, common part (R153): the length is stored whatever it is, and the sums start over it. -/
def Block.startFrame (b : Block) (w : Byte) : Block :=
  let sums := flStep (0x00#8, 0x00#8) w
  { b with decLen := w, decIdx := 0x00#8, decS1 := sums.1, decS2 := sums.2 }

/-- Phase LEN, the three cases: zero length (R155), overflow (R156), accepted (R154). -/
def Block.judgeLength (P : Params) (w : Byte) (b : Block) : Block :=
  if w = 0x00#8 then { b with zlen := true, decPhase := .hunt }
  else if P.lmax < w.toNat then { b with decResult := .lenovf, decPhase := .hold }
  else { b with decPhase := .data }

/-- A stored payload byte `v` (R157, R159): the sums take the unescaped byte; the phase test reads the old
`dec_idx` (R14). -/
def Block.countPayload (b : Block) (v : Byte) : Block :=
  let sums := flStep b.decSums v
  { b with
    decS1 := sums.1
    decS2 := sums.2
    decIdx := b.decIdx + 1#8
    decPhase := if b.decIdx.toNat + 1 = b.decLen.toNat then .ck1 else .data }

/-- Store the payload byte `v` (R157, R159). -/
def storePayload (v : Byte) (s : State) : Result State :=
  onOk (writeRx (1 + s.blk.decIdx.toNat) v s) fun t => .ok (t.withBlk (t.blk.countPayload v))

/-- The RXL step on the byte `w` (R151), by the current phase. In HOLD there is no step (R25). -/
def rxlByte (w : Byte) (s : State) : Result State :=
  match s.blk.decPhase with
  | .hunt => .ok (if w = Config.START then s.withBlk { s.blk with decPhase := .len } else s)
  | .len =>
    onOk (writeRx 0 w s) fun t => .ok (t.withBlk (Block.judgeLength t.params w (t.blk.startFrame w)))
  | .data =>
    if w = Config.ESC then .ok (s.withBlk { s.blk with decPhase := .esc }) else storePayload w s
  | .esc => storePayload (w ^^^ Config.XMASK) s
  | .ck1 =>
    onOk (writeRx (s.blk.decLen.toNat + 1) w s) fun t => .ok (t.withBlk { t.blk with decPhase := .ck2 })
  | .ck2 =>
    onOk (readRx (s.blk.decLen.toNat + 1) s) fun (hi, t) =>
      onOk (writeRx (s.blk.decLen.toNat + 2) w t) fun u =>
        .ok (u.withBlk { u.blk with
          decResult := if pack hi w = pack u.blk.decS1 u.blk.decS2 then .ok else .ckfail
          decPhase := .hold })
  | .hold => .ok s

/-- RXL's turn: it hands over a byte exactly when it offers one, the block is not in reset and
`dec_phase != HOLD` (R22, R25); otherwise it is held or has nothing, and keeps its bytes (U6; log 2). -/
def rxlTurn (s : State) : Result State :=
  if s.rstN = true ∧ s.blk.decPhase ≠ .hold then
    match s.rxq with
    | [] => .ok s
    | w :: rest => rxlByte w (acceptByte w rest s)
  else .ok s

end Sys2Proof.Machine
end

