-- ==== Sys2Proof/Machine/Wire.lean ====
section
/-! DEFINITION. The wire format as pure functions: escaping and the wire image of a payload (R80, R81, R120 to R122),
and what a received byte stream decodes to (R150, R163). The machine's steps do not use them; statements
compare the two. -/

namespace Sys2Proof.Machine

/-- The escape trigger values are START and ESC (R10). -/
def needsEscape (b : Byte) : Bool := b = Config.START || b = Config.ESC

/-- `esc(b)` (R121). -/
def esc (b : Byte) : List Byte := if needsEscape b then [Config.ESC, b ^^^ Config.XMASK] else [b]

/-- The escaped payload span (R122). -/
def escAll (p : List Byte) : List Byte := p.flatMap esc

/-- `k` of R123: how many payload bytes need an escape. -/
def escCount (p : List Byte) : Nat := p.countP needsEscape

/-- The length byte of a payload (R122). -/
def lenByte (p : List Byte) : Byte := BitVec.ofNat 8 p.length

/-- The frame checksum: the length byte, then the unescaped payload (R109, R122). -/
def frameCk (p : List Byte) : Word := fletcher16 (lenByte p :: p)

/-- `encode(p)` of R122: the wire image of a payload. -/
def wireImage (p : List Byte) : List Byte :=
  [Config.START, lenByte p] ++ escAll p ++ [hiByte (frameCk p), loByte (frameCk p)]

/-- How a decode attempt ended (R163). -/
inductive DecodeEnd where
  /-- Waiting for more bytes, in whatever phase the last step left. -/
  | pending
  /-- Length overflow: the rejected length. -/
  | lenovf (len : Byte)
  /-- A whole frame: its length byte, payload and two received checksum bytes. -/
  | frame (len : Byte) (payload : List Byte) (c1 c2 : Byte)
deriving DecidableEq, Repr

/-- What `decode_one` returns (R163): the outcome, the bytes consumed, and whether a zero length was met. -/
structure Decoded where
  outcome : DecodeEnd
  consumed : Nat
  zlen : Bool
deriving DecidableEq, Repr

/-- The payload loop of R163: `n` payload bytes from the stream, unescaped, with the bytes consumed and the
rest; `none` when the stream runs out first. -/
def takePayload : Nat → List Byte → Option (List Byte × Nat × List Byte)
  | 0, ws => some ([], 0, ws)
  | _ + 1, [] => none
  | n + 1, w :: ws =>
    if w = Config.ESC then
      match ws with
      | [] => none
      | v :: rest =>
        match takePayload n rest with
        | some (p, k, left) => some ((v ^^^ Config.XMASK) :: p, k + 2, left)
        | none => none
    else
      match takePayload n ws with
      | some (p, k, left) => some (w :: p, k + 1, left)
      | none => none

/-- The DATA to CK2 part of R163, after the length byte `len` was accepted: `i` bytes are consumed, `ws` are
left, of a stream of `total` bytes. -/
def decodeBody (total : Nat) (len : Byte) (i : Nat) (z : Bool) (ws : List Byte) : Decoded :=
  match takePayload len.toNat ws with
  | some (p, k, c1 :: c2 :: _) => ⟨.frame len p c1 c2, i + k + 2, z⟩
  | _ => ⟨.pending, total, z⟩

/-- The HUNT and LEN part of R163: `i` bytes are consumed, of a stream of `total` bytes, and `z` says whether
a zero length was met. -/
def decodeFrom (P : Params) (total : Nat) : Nat → Bool → List Byte → Decoded
  | _, z, [] => ⟨.pending, total, z⟩
  | _, z, [_] => ⟨.pending, total, z⟩
  | i, z, w :: len :: ws =>
    if w = Config.START then
      if len = 0#8 then decodeFrom P total (i + 2) true ws
      else if P.lmax < len.toNat then ⟨.lenovf len, i + 2, z⟩
      else decodeBody total len (i + 2) z ws
    else decodeFrom P total (i + 1) z (len :: ws)

/-- `decode_one(ws)` of R163 (log 18). -/
def decodeOne (P : Params) (ws : List Byte) : Decoded := decodeFrom P ws.length 0 false ws

/-- The result a finished attempt leaves in `dec_result` (R163). -/
def DecodeEnd.result : DecodeEnd → DecResult
  | .pending => .none
  | .lenovf _ => .lenovf
  | .frame len p c1 c2 => if pack c1 c2 = fletcher16 (len :: p) then .ok else .ckfail

/-- The bytes a finished attempt leaves in RX from index 0 (R163). -/
def DecodeEnd.rxBytes : DecodeEnd → List Byte
  | .pending => []
  | .lenovf len => [len]
  | .frame len p c1 c2 => len :: p ++ [c1, c2]

end Sys2Proof.Machine
end

