-- ==== Sys2Proof/Machine/Txl.lean ====
section
/-! DEFINITION. The TXL step: emitting a frame one byte at a time (section 3 of 42_encoder.md). -/

namespace Sys2Proof.Machine

/-- The phase after a payload byte has gone out whole (R134, R135): the test reads the old `enc_idx` (R14). -/
def Block.afterPayloadByte (b : Block) : Block :=
  { b with
    encIdx := b.encIdx + 1#8
    encPhase := if b.encIdx.toNat + 1 = b.txlen.toNat then .ck1 else .data }

/-- Phase LEN (R133): what follows the length byte. -/
def Block.afterLenByte (b : Block) : Block :=
  { b with
    encIdx := 0x00#8
    encPhase := if b.txlen = 0x00#8 then .ck1 else .data }

/-- The TXL step (R131): one byte by the rule of the current phase, R132 to R137. In IDLE there is no step
(R26). -/
def txlStep (s : State) : Result State :=
  match s.blk.encPhase with
  | .idle => .ok s
  | .start => .ok (emit Config.START (s.withBlk { s.blk with encPhase := .len }))
  | .len => .ok (emit s.blk.txlen (s.withBlk s.blk.afterLenByte))
  | .data =>
    onOk (readTx s.blk.encIdx.toNat s) fun (b, t) =>
      if needsEscape b then .ok (emit Config.ESC (t.withBlk { t.blk with encPhase := .esc2 }))
      else .ok (emit b (t.withBlk t.blk.afterPayloadByte))
  | .esc2 =>
    onOk (readTx s.blk.encIdx.toNat s) fun (b, t) =>
      .ok (emit (b ^^^ Config.XMASK) (t.withBlk t.blk.afterPayloadByte))
  | .ck1 => .ok (emit (hiByte s.blk.encCk) (s.withBlk { s.blk with encPhase := .ck2 }))
  | .ck2 => .ok (emit (loByte s.blk.encCk) (s.withBlk { s.blk with encPhase := .idle }))

/-- TXL's turn: it takes a byte exactly when the block is not in reset and `enc_phase != IDLE` (R23, R26);
otherwise it has no step (log 2). -/
def txlTurn (s : State) : Result State :=
  if s.rstN = true ∧ s.blk.encPhase ≠ .idle then txlStep s else .ok s

/-- `tx_byte` while `tx_valid` is 1: the byte the next TXL step would take (R23; log 14). -/
def txPort (s : State) : Option Byte :=
  match txlTurn { s with txLog := [] } with
  | .ok t => t.txLog.head?
  | .error _ => none

end Sys2Proof.Machine
end

