-- ==== Sys2Proof/Machine/Agents.lean ====
section
/-! DEFINITION. The turns of the agents (R18, R20, R24): HOST's command with its response, RXL's byte, TXL's byte and
the two edges of `rst_n`. -/

namespace Sys2Proof.Machine

/-- Carry out a command word: its command's meaning, or ERR_ILLEGAL for a word that is no command (R194). -/
def runWord (w : Word) (s : State) : Host.Outcome State Fault Refusal :=
  match decode w with
  | .ok i => exec i s
  | .error _ => .next (raiseErr .illegal s)

/-- The observation of R18 after a HOST step: the command word with its response. -/
def logCommand (w : Word) (s : State) : State :=
  match s.rsp with
  | some r => { s with cmdLog := s.cmdLog ++ [(w, r)] }
  | none => s

/-- Apply a function to the next state of an outcome. -/
def mapNext (f : State → State) (o : Host.Outcome State Fault Refusal) : Host.Outcome State Fault Refusal :=
  match o with
  | .next s => .next (f s)
  | .fault r => .fault r
  | .refused r => .refused r

/-- HOST's turn (R21, R24): enabled outside reset. A command presented while `rst_n` is 0 gets no response and
has no effect (R240; log 7). -/
def hostTurn (w : Word) (s : State) : Host.Outcome State Fault Refusal :=
  if s.rstN then mapNext (logCommand w) (runWord w s) else .next s

/-- One turn of the schedule, taken by its agent if that agent has an enabled step (R24; log 2). -/
def takeTurn (t : Turn) (s : State) : Host.Outcome State Fault Refusal :=
  match t with
  | .cmd w => hostTurn w s
  | .rxl => settle (rxlTurn s)
  | .txl => settle (txlTurn s)
  | .rstLow => .next (hardReset s)
  | .rstHigh => .next { s with rstN := true }

/-- The state at the start of a step: the turn is off the schedule, and the response port is no longer valid
(R21; log 5). -/
def beginStep (rest : List Turn) (s : State) : State := { s with sched := rest, rsp := none }

/-- The state in which HOST presents the word `w` in the very next turn, outside reset (R21). -/
def presentWord (w : Word) (s : State) : State := { s with sched := .cmd w :: s.sched, rstN := true }

end Sys2Proof.Machine
end

