-- ==== Sys2Proof/Machine/Step.lean ====
section
/-! DEFINITION. One step of the machine: the next turn of the schedule (R18, R24; log 1, log 2). -/

namespace Sys2Proof.Machine

/-- One atomic step: the first turn of the schedule is taken. With no turn left no agent steps and the block
keeps its state (R226; log 2). -/
def step (s : State) : Host.Outcome State Fault Refusal :=
  match s.sched with
  | [] => .next (beginStep [] s)
  | t :: rest => takeTurn t (beginStep rest s)

/-- The state in which HOST presents, in the very next step, the command whose `nbits` bits are `w` (log 1). -/
def State.withFetchWord (s : State) (nbits w : Nat) : State :=
  presentWord (BitVec.ofNat 16 (w % 2 ^ nbits)) s

end Sys2Proof.Machine
end

