-- ==== Sys2Proof/Machine/Asm.lean ====
section
/-! DEFINITION. The assembler syntax of a command sequence (R87) and the pseudo-instructions (R88). What R87 leaves open
of the text's form (separators, letter case of hexadecimal digits, commas) is a DESIGN CHOICE, log 17, and so is what
R88 leaves open of a pseudo-instruction's operand count, log 24. -/

namespace Sys2Proof.Machine

/-- The expansion of a pseudo-instruction (R88). -/
def expandPseudo : Pseudo → List Instr
  | .ckSeq bs => .ckClr :: bs.map .ckByte
  | .encFrame bs => .encClr :: bs.map .encLoad ++ [.encSend]
  | .encAck => [.encClr, .encLoad 0x1D#8, .encSend]
  | .encNak => [.encClr, .encLoad 0x1E#8, .encSend]
  | .decTake => [.decNext]

/-- One line of a command sequence: a command, a pseudo-instruction, `.word`, or nothing but a comment (R87). -/
inductive AsmLine where
  | cmd (i : Instr)
  | pseudo (p : Pseudo)
  | word (w : Word)
  | blank
deriving DecidableEq, Repr

/-- The command words a line stands for (R87, R88). A line placed as data and not read from text may hold an ENC_FRAME
beyond R88's bound; it stands for its commands all the same (DESIGN CHOICE, log 24). -/
def AsmLine.words : AsmLine → List Word
  | .cmd i => [encode i]
  | .pseudo p => (expandPseudo p).map encode
  | .word w => [w]
  | .blank => []

/-- What separates the parts of a line: a space, a tab, or the comma of an operand list (log 17). -/
def isGap (c : Char) : Bool := c = ' ' || c = '\t' || c = ','

/-- A line without its comment: a `;` starts one, which runs to the end of the line (R87). -/
def stripComment (cs : List Char) : List Char := cs.takeWhile fun c => c != ';'

/-- The parts of a line; `acc` holds the characters of the part being read, last first. -/
def splitParts : List Char → List Char → List (List Char)
  | acc, [] => if acc.isEmpty then [] else [acc.reverse]
  | acc, c :: cs =>
    if isGap c then (if acc.isEmpty then splitParts [] cs else acc.reverse :: splitParts [] cs)
    else splitParts (c :: acc) cs

/-- The value of a decimal digit. -/
def decDigit (c : Char) : Option Nat :=
  if 48 ≤ c.toNat ∧ c.toNat ≤ 57 then some (c.toNat - 48) else none

/-- The value of a hexadecimal digit. -/
def hexDigit (c : Char) : Option Nat :=
  if 48 ≤ c.toNat ∧ c.toNat ≤ 57 then some (c.toNat - 48)
  else if 65 ≤ c.toNat ∧ c.toNat ≤ 70 then some (c.toNat - 55)
  else if 97 ≤ c.toNat ∧ c.toNat ≤ 102 then some (c.toNat - 87)
  else none

/-- The value of a row of digits in a base, most significant first; `none` if one is no digit. -/
def digitsValue (base : Nat) (digit : Char → Option Nat) : Nat → List Char → Option Nat
  | acc, [] => some acc
  | acc, c :: cs =>
    match digit c with
    | some d => digitsValue base digit (acc * base + d) cs
    | none => none

/-- `imm`: `0xHH` or a decimal 0..255 (R87). -/
def parseImm : List Char → Option Byte
  | ['0', 'x', a, b] => (digitsValue 16 hexDigit 0 [a, b]).map (BitVec.ofNat 8)
  | [] => none
  | cs =>
    match digitsValue 10 decDigit 0 cs with
    | some n => if n ≤ 255 then some (BitVec.ofNat 8 n) else none
    | none => none

/-- The word of `.word 0xHHHH` (R87). -/
def parseWord : List Char → Option Word
  | ['0', 'x', a, b, c, d] => (digitsValue 16 hexDigit 0 [a, b, c, d]).map (BitVec.ofNat 16)
  | _ => none

/-- All operands of a list, or none if one is no `imm`. -/
def parseImms : List (List Char) → Option (List Byte)
  | [] => some []
  | cs :: rest =>
    match parseImm cs, parseImms rest with
    | some b, some bs => some (b :: bs)
    | _, _ => none

/-- The mnemonic of a command (R84). -/
def mnemonic : Instr → List Char
  | .nop => "NOP".toList
  | .srst => "SRST".toList
  | .cfg => "CFG".toList
  | .status => "STATUS".toList
  | .ckClr => "CK_CLR".toList
  | .ckByte _ => "CK_BYTE".toList
  | .ckRd => "CK_RD".toList
  | .encClr => "ENC_CLR".toList
  | .encLoad _ => "ENC_LOAD".toList
  | .encSend => "ENC_SEND".toList
  | .encRdcnt => "ENC_RDCNT".toList
  | .encRdck => "ENC_RDCK".toList
  | .encRdbuf _ => "ENC_RDBUF".toList
  | .decNext => "DEC_NEXT".toList
  | .decAbort => "DEC_ABORT".toList
  | .decRdbuf _ => "DEC_RDBUF".toList
  | .decRdck => "DEC_RDCK".toList
  | .decRdcnt => "DEC_RDCNT".toList
  | .decClrz => "DEC_CLRZ".toList

/-- The form Z commands, written as their mnemonic alone (R87). -/
def zCommands : List Instr :=
  [.nop, .srst, .cfg, .status, .ckClr, .ckRd, .encClr, .encSend, .encRdcnt, .encRdck,
   .decNext, .decAbort, .decRdck, .decRdcnt, .decClrz]

/-- The form B and I commands with the operand `b`, written as `MNEMONIC imm` (R87). -/
def operandCommands (b : Byte) : List Instr :=
  [.ckByte b, .encLoad b, .encRdbuf b.toNat, .decRdbuf b.toNat]

/-- A command without operand by its mnemonic. -/
def parseZ (m : List Char) : Option AsmLine :=
  if m = "ENC_ACK".toList then some (.pseudo .encAck)
  else if m = "ENC_NAK".toList then some (.pseudo .encNak)
  else if m = "DEC_TAKE".toList then some (.pseudo .decTake)
  else (zCommands.find? fun i => mnemonic i = m).map .cmd

/-- A pseudo-instruction as a line, where it meets R88's bound; `none` for ENC_FRAME of more than TXCAP bytes: R88 gives
such a line no expansion, and rejecting the line is a DESIGN CHOICE (log 24). -/
def pseudoLine (P : Params) (p : Pseudo) : Option AsmLine := if p.wf P then some (.pseudo p) else none

/-- The parts of a line as a line; `none` for text that R87 and R88 do not admit. CK_SEQ and ENC_FRAME with no operand
are read as `n = 0` of R88, which gives no lower bound: DESIGN CHOICE (log 24). -/
def parseParts (P : Params) : List (List Char) → Option AsmLine
  | [] => some .blank
  | m :: ops =>
    if m = "CK_SEQ".toList then (parseImms ops).bind fun bs => pseudoLine P (.ckSeq bs)
    else if m = "ENC_FRAME".toList then (parseImms ops).bind fun bs => pseudoLine P (.encFrame bs)
    else
      match ops with
      | [] => parseZ m
      | [op] =>
        if m = ".word".toList then (parseWord op).map .word
        else
          match parseImm op with
          | some b => ((operandCommands b).find? fun i => mnemonic i = m).map .cmd
          | none => none
      | _ => none

/-- One line of text (R87), for an instance with the capacities `P`, which bound ENC_FRAME (R88). -/
def parseLine (P : Params) (cs : List Char) : Option AsmLine := parseParts P (splitParts [] (stripComment cs))

/-- A hexadecimal digit's character, upper case. -/
def hexChar (n : Nat) : Char := if n < 10 then Char.ofNat (48 + n) else Char.ofNat (55 + n)

/-- An operand as `0xHH` (R87). -/
def showImm (b : Byte) : List Char := ['0', 'x', hexChar (b.toNat / 16), hexChar (b.toNat % 16)]

/-- A command in assembler syntax (R87). -/
def showInstr (i : Instr) : List Char :=
  match formOf i with
  | .z => mnemonic i
  | .b | .i => mnemonic i ++ ' ' :: showImm (operandOf i)

end Sys2Proof.Machine
end

