-- ==== Sys2Proof/Machine/Program.lean ====
section
/-! DEFINITION. Running turns and programs in the notation of R89 (30_encoding.md): schedules placed from outside, and
the directives of the test programs. -/

namespace Sys2Proof.Machine

/-- Place turns before the schedule and take exactly that many steps of the machine (R24: one interleaving). -/
def playTurns (ts : List Turn) (s : State) : Host.Outcome State Fault Refusal :=
  Host.Core.run Sys2Proof.core ts.length { s with sched := ts ++ s.sched }

/-- Go on with the next state of an outcome. -/
def andThen (o : Host.Outcome State Fault Refusal) (k : State → Host.Outcome State Fault Refusal) :
    Host.Outcome State Fault Refusal :=
  match o with
  | .next s => k s
  | .fault r => .fault r
  | .refused r => .refused r

/-- `run rx` (R89): RXL steps until it is held or its bytes are exhausted, at most `n` steps (log 19). -/
def runRx : Nat → State → Host.Outcome State Fault Refusal
  | 0, s => .next s
  | n + 1, s =>
    if s.blk.decPhase = .hold ∨ s.rxq = [] then .next s
    else andThen (playTurns [.rxl] s) (runRx n)

/-- `run tx` (R89): TXL accepts bytes until `enc_phase = IDLE`, at most `n` steps (log 19). -/
def runTx : Nat → State → Host.Outcome State Fault Refusal
  | 0, s => .next s
  | n + 1, s =>
    if s.blk.encPhase = .idle then .next s else andThen (playTurns [.txl] s) (runTx n)

/-- One line of a test program (R89). -/
inductive Directive where
  /-- A line of commands. -/
  | line (l : AsmLine)
  /-- `rx: HH HH ...`: RXL offers these bytes from this point on. -/
  | rx (bs : List Byte)
  /-- `run rx` -/
  | runRx
  /-- `run tx` -/
  | runTx
deriving DecidableEq, Repr

/-- More TXL steps than any frame takes: start, length, 255 payload bytes of two wire bytes, two checksum
bytes (R138). -/
def maxFrameSteps : Nat := 514

/-- Carry out one line of a test program. -/
def runDirective (d : Directive) (s : State) : Host.Outcome State Fault Refusal :=
  match d with
  | .line l => playTurns (l.words.map .cmd) s
  | .rx bs => .next { s with rxq := s.rxq ++ bs }
  | .runRx => runRx s.rxq.length s
  | .runTx => runTx maxFrameSteps s

/-- Carry out a test program: its steps in the order written (R89). -/
def runProgram : List Directive → State → Host.Outcome State Fault Refusal
  | [], s => .next s
  | d :: ds, s => andThen (runDirective d s) (runProgram ds)

end Sys2Proof.Machine
end

