-- ==== Sys2Proof/Safety.lean ====
section
/-! DEFINITION. The terms claims use: what a step stores, what a frame in a buffer is, what is still to be sent, the
invariants of R45, and what counts as a safe run. -/

namespace Sys2Proof.Machine

/-- The buffer `m'` is `m` with the byte `v` at index `i` and every other index as before. -/
def StoredAt (m m' : Memory) (i : Nat) (v : Byte) : Prop :=
  Memory.read? m' i = some v ∧ ∀ j, j ≠ i → Memory.read? m' j = Memory.read? m j

/-- Every byte of both buffers reads as before. -/
def SameBuffers (b b' : Block) : Prop :=
  ∀ j, Memory.read? b'.rx j = Memory.read? b.rx j ∧ Memory.read? b'.tx j = Memory.read? b.tx j

/-- A buffer holds the bytes `bs` from index `i` on. -/
def HoldsAt (m : Memory) (i : Nat) (bs : List Byte) : Prop :=
  ∀ j, j < bs.length → Memory.read? m (i + j) = bs[j]?

/-- `TX[0..txlen-1]` is the payload `p` (R31). -/
def HoldsPayload (b : Block) (p : List Byte) : Prop :=
  b.txlen.toNat = p.length ∧ HoldsAt b.tx 0 p

/-- A form Z command: `op` with `imm8 = 0x00` is the command, and with any other `imm8` it is illegal, in every
state, with no effect but the response (R83, R84, R194). -/
def IsZCommand (op : Byte) (i : Instr) : Prop :=
  decode (pack op 0x00#8) = .ok i ∧
  ∀ (x : Byte) (s : State), x ≠ 0x00#8 → runWord (pack op x) s = .next { s with rsp := some ⟨.illegal, 0x0000#16⟩ }

/-- A form B or I command: `op` with every `imm8` is the command with that operand (R83, R84). -/
def IsOperandCommand (op : Byte) (mk : Byte → Instr) : Prop := ∀ x : Byte, decode (pack op x) = .ok (mk x)

/-- The two checksum bytes of the frame being sent, high byte first (R33, R60). -/
def ckBytes (b : Block) : List Byte := [hiByte b.encCk, loByte b.encCk]

/-- The wire bytes of the payload `p`'s frame that ENC has still to hand to TXL in its current phase (R34). -/
def unsent (p : List Byte) (b : Block) : List Byte :=
  match b.encPhase with
  | .idle => []
  | .start => Config.START :: b.txlen :: escAll p ++ ckBytes b
  | .len => b.txlen :: escAll p ++ ckBytes b
  | .data => escAll (p.drop b.encIdx.toNat) ++ ckBytes b
  | .esc2 =>
    (match p.drop b.encIdx.toNat with
      | [] => []
      | v :: rest => (v ^^^ Config.XMASK) :: escAll rest) ++ ckBytes b
  | .ck1 => ckBytes b
  | .ck2 => [loByte b.encCk]

/-- The registers of unit CK (R29). -/
def SameCk (b b' : Block) : Prop := b'.ckS1 = b.ckS1 ∧ b'.ckS2 = b.ckS2

/-- The registers and the buffer of unit ENC (section 2.2 of 10_state.md). -/
def SameEnc (b b' : Block) : Prop :=
  b'.txlen = b.txlen ∧ b'.encIdx = b.encIdx ∧ b'.encCk = b.encCk ∧ b'.encPhase = b.encPhase ∧
  ∀ j, Memory.read? b'.tx j = Memory.read? b.tx j

/-- The frame registers and the buffer of unit DEC (section 2.3 of 10_state.md), less `zlen`. -/
def SameDecFrame (b b' : Block) : Prop :=
  b'.decPhase = b.decPhase ∧ b'.decResult = b.decResult ∧ b'.decLen = b.decLen ∧ b'.decIdx = b.decIdx ∧
  b'.decS1 = b.decS1 ∧ b'.decS2 = b.decS2 ∧ ∀ j, Memory.read? b'.rx j = Memory.read? b.rx j

/-- The registers and the buffer of unit DEC (section 2.3 of 10_state.md). -/
def SameDec (b b' : Block) : Prop := SameDecFrame b b' ∧ b'.zlen = b.zlen

/-- The inputs and the parts of the observation that no command writes. -/
def SameInputs (s t : State) : Prop :=
  t.params = s.params ∧ t.rstN = s.rstN ∧ t.sched = s.sched ∧ t.rxq = s.rxq ∧ t.cmdLog = s.cmdLog ∧ t.rxLog = s.rxLog ∧ t.txLog = s.txLog

/-- DEC is inside a decode attempt whose length byte was accepted (R45, fifth line). -/
def DecPhase.inFrame : DecPhase → Bool
  | .data | .esc | .ck1 | .ck2 => true
  | .hunt | .len | .hold => false

/-- DEC is inside a decode attempt: the start marker was taken and no end was met. -/
def DecPhase.inAttempt : DecPhase → Bool
  | .len | .data | .esc | .ck1 | .ck2 => true
  | .hunt | .hold => false

/-- What R45 says of every reachable state, read with R125: `enc_idx <= txlen` is claimed while a frame is being
emitted only, since ENC_CLR empties TX and keeps `enc_idx` (log 22); while idle it is at most TXCAP. -/
structure Block.Facts (P : Params) (b : Block) : Prop where
  ckS1_le : b.ckS1.toNat ≤ 254
  ckS2_le : b.ckS2.toNat ≤ 254
  decS1_le : b.decS1.toNat ≤ 254
  decS2_le : b.decS2.toNat ≤ 254
  encCk_hi_le : (hiByte b.encCk).toNat ≤ 254
  encCk_lo_le : (loByte b.encCk).toNat ≤ 254
  txlen_le : b.txlen.toNat ≤ P.txcap
  encIdx_le : b.encPhase ≠ .idle → b.encIdx.toNat ≤ b.txlen.toNat
  encIdx_le_txcap : b.encIdx.toNat ≤ P.txcap
  decIdx_le : b.decIdx.toNat ≤ b.decLen.toNat
  decLen_le : b.decPhase.inFrame = true → b.decLen.toNat ≤ P.lmax
  hold_iff : b.decPhase = .hold ↔ b.decResult ≠ .none
  encPhase_legal : b.encPhase.code ≠ 7#3
  decPhase_legal : b.decPhase.code ≠ 7#3

/-- The buffers are in canonical form, hold no index at or above their capacity (R67), and every byte of the
payload was written (U1). -/
structure Block.BuffersOk (P : Params) (b : Block) : Prop where
  rx_wf : Memory.wf b.rx = true
  tx_wf : Memory.wf b.tx = true
  rx_below : Memory.below P.cap b.rx = true
  tx_below : Memory.below P.txcap b.tx = true
  payload_written : ∃ p, HoldsPayload b p

/-- The encoder's position agrees with the frame it sends (R32 to R34, R127, R134, R135). -/
structure Block.EncOk (b : Block) : Prop where
  idx_lt : b.encPhase = .data ∨ b.encPhase = .esc2 → b.encIdx.toNat < b.txlen.toNat
  pending_escape : b.encPhase = .esc2 → ∃ v, Memory.read? b.tx b.encIdx.toNat = some v ∧ needsEscape v = true
  latched : ∀ p, b.encPhase ≠ .idle → HoldsPayload b p → b.encCk = frameCk p

/-- Outside HUNT and LEN, RX holds the length byte and the payload bytes stored so far, and the sums are the
Fletcher sums over them (R36 to R39). -/
def Block.FrameStored (b : Block) : Prop :=
  ∃ p : List Byte, p.length = b.decIdx.toNat ∧ HoldsAt b.rx 0 (b.decLen :: p) ∧
    (b.decS1, b.decS2) = flFold (0x00#8, 0x00#8) (b.decLen :: p)

/-- The decoder's position agrees with the frame it receives (R36 to R41, R169). -/
structure Block.DecOk (P : Params) (b : Block) : Prop where
  stored : b.decPhase.inFrame = true ∨ b.decPhase = .hold → b.FrameStored
  idx_lt : b.decPhase = .data ∨ b.decPhase = .esc → b.decIdx.toNat < b.decLen.toNat
  idx_eq : b.decPhase = .ck1 ∨ b.decPhase = .ck2 → b.decIdx = b.decLen
  ck1_stored : b.decPhase = .ck2 → ∃ hi, Memory.read? b.rx (b.decLen.toNat + 1) = some hi
  held_frame : b.decResult = .ok ∨ b.decResult = .ckfail →
    b.decIdx = b.decLen ∧ b.decLen.toNat ≤ P.lmax ∧
    ∃ hi lo, Memory.read? b.rx (b.decLen.toNat + 1) = some hi ∧ Memory.read? b.rx (b.decLen.toNat + 2) = some lo ∧
      (b.decResult = .ok ↔ pack hi lo = pack b.decS1 b.decS2)
  held_overflow : b.decResult = .lenovf → b.decIdx = 0x00#8 ∧ P.lmax < b.decLen.toNat

/-- The invariant of the block: R45 and what makes it inductive. -/
structure Block.Inv (P : Params) (b : Block) : Prop where
  facts : Block.Facts P b
  buffers : Block.BuffersOk P b
  enc : Block.EncOk b
  dec : Block.DecOk P b

/-- The invariant of the machine, at any capacities in the ranges of R7 and R9. While `rst_n` is low every register is
at its reset value (R240). -/
structure Inv (s : State) : Prop where
  params_wf : s.params.wf = true
  block : Block.Inv s.params s.blk
  in_reset : s.rstN = false → s.blk = Block.reset

/-- The machine takes a step: it neither faults nor refuses. -/
def Runs (s : State) : Prop := ∃ t, step s = .next t

/-- At most how many RXL steps a decode attempt still takes (R258). -/
def attemptBudget (P : Params) (b : Block) : Nat :=
  match b.decPhase with
  | .hunt | .hold => 0
  | .len => 1 + 2 * P.lmax + 2
  | .data => 2 * (b.decLen.toNat - b.decIdx.toNat) + 2
  | .esc => 2 * (b.decLen.toNat - b.decIdx.toNat) + 1
  | .ck1 => 2
  | .ck2 => 1

end Sys2Proof.Machine
end

