-- ==== Sys2Proof/Certificates/Slice0/Obligations.lean ====
section
/-! DEFINITION. The statements for the provers, from the numbered rules of spec/. -/

open Sys2Proof Sys2Proof.Machine

/-! ### Encoding (30_encoding.md) -/

/-- R82, R84: decoding the word of a well-formed command gives the command back, with every operand. -/
def Obligations.DecodeOfEncode : Prop :=
  ∀ i : Instr, WellFormed i → decode (encode i) = .ok i

/-- R82 to R84: a word that decodes is the word of the command it decodes to, and that command is well formed. -/
def Obligations.EncodeOfDecode : Prop :=
  ∀ (w : Word) (i : Instr), decode w = .ok i → WellFormed i ∧ encode i = w

/-- R84: a word decodes to the row of the opcode map with `(w AND mask) = match`; at most one row matches a word;
a word that no row matches is no command. -/
def Obligations.DecodeFollowsOpcodeMap : Prop :=
  ∀ w : Word,
    (∀ i, decode w = .ok i → rowOf i ∈ opcodeMap ∧ (rowOf i).accepts w = true) ∧
    (∀ r ∈ opcodeMap, r.accepts w = true → ∃ i, decode w = .ok i ∧ rowOf i = r) ∧
    (∀ r ∈ opcodeMap, ∀ r' ∈ opcodeMap, r.accepts w = true → r'.accepts w = true → r = r') ∧
    ((∀ r ∈ opcodeMap, r.accepts w = false) ↔ ∃ e, decode w = .error e)

/-- R85: of the 65536 words, 15 are form Z commands, 1024 are form B or I commands, and 64497 are illegal. -/
def Obligations.CountOfCommandWords : Prop :=
  let count (ask : Word → Bool) : Nat :=
    ((List.range 256).map fun op =>
      (List.range 256).countP fun imm8 => ask (pack (BitVec.ofNat 8 op) (BitVec.ofNat 8 imm8))).sum
  count (fun w => match decode w with
    | .ok i => decide (formOf i = .z)
    | .error _ => false) = 15 ∧
  count (fun w => match decode w with
    | .ok i => decide (formOf i ≠ .z)
    | .error _ => false) = 1024 ∧
  count (fun w => !isCommand w) = 64497 ∧
  ∀ w : Word, ∃ op imm8, op < 256 ∧ imm8 < 256 ∧ w = pack (BitVec.ofNat 8 op) (BitVec.ofNat 8 imm8)

/-- R84, R194: words written out from the opcode map and from the examples of R194 decode as the map says. -/
def Obligations.SampleWordsDecode : Prop :=
  decode 0x0300#16 = .ok .status ∧ decode 0x1121#16 = .ok (.ckByte 0x21#8) ∧
  decode 0x2200#16 = .ok .encSend ∧ decode 0x25FE#16 = .ok (.encRdbuf 254) ∧
  decode 0x3100#16 = .ok .decAbort ∧ decode 0x327F#16 = .ok (.decRdbuf 127) ∧
  decode 0x0400#16 = .error (.unassignedOp 0x04#8) ∧ decode 0xFF00#16 = .error (.unassignedOp 0xFF#8) ∧
  decode 0x1001#16 = .error (.operandNotZero 0x10#8 0x01#8) ∧
  decode 0x3301#16 = .error (.operandNotZero 0x33#8 0x01#8)

/-- R87: a command written in assembler form reads back as that command. -/
def Obligations.AssemblerReadsWhatItWrites : Prop :=
  ∀ (P : Params) (i : Instr), WellFormed i → parseLine P (showInstr i) = some (.cmd i)

/-! ### A HOST step (10_state.md, 60_exceptions.md) -/

/-- R21, R24: outside reset, a step on a turn of HOST carries out the command that the presented word decodes to,
and adds the word with its response to the observation; the turn is taken off the schedule. -/
def Obligations.StepRunsDecodedCommand : Prop :=
  ∀ (s : State) (w : Word) (rest : List Turn) (i : Instr),
    s.sched = .cmd w :: rest → s.rstN = true → decode w = .ok i →
    step s = mapNext (logCommand w) (exec i { s with sched := rest, rsp := none })

/-- R194: a word that no row of the opcode map matches completes with (ERR_ILLEGAL, 0x0000) in every state and
writes no state. -/
def Obligations.StepAnswersIllegalWord : Prop :=
  ∀ (s : State) (w : Word) (rest : List Turn),
    s.sched = .cmd w :: rest → s.rstN = true → (∀ r ∈ opcodeMap, r.accepts w = false) →
    step s = .next { s with
      sched := rest
      rsp := some ⟨.illegal, 0x0000#16⟩
      cmdLog := s.cmdLog ++ [(w, ⟨.illegal, 0x0000#16⟩)] }

/-- R212: a command that raises an error writes no state, and its response carries the data 0x0000; R86: every
command answers. -/
def Obligations.ErrorsWriteNothing : Prop :=
  ∀ (w : Word) (s t : State), runWord w s = .next t →
    ∃ r, t.rsp = some r ∧
      (r.err ≠ .ok → r.data = 0x0000#16 ∧ t = { s with rsp := some r })

/-- R211, R213, R214: which errors a command answers with, and exactly when; ERR_BUSY comes before ERR_FULL; and the
codes of `rsp_err` (R211). -/
def Obligations.ErrorsOfEachCommand : Prop :=
  ∀ (i : Instr) (s t : State) (r : Response), exec i s = .next t → t.rsp = some r →
    r.err ≠ .illegal ∧
    (r.err = .busy ↔ (i = .encClr ∨ i = .encSend ∨ ∃ d, i = .encLoad d) ∧ s.blk.encPhase ≠ .idle) ∧
    (r.err = .full ↔ (∃ d, i = .encLoad d) ∧ s.blk.encPhase = .idle ∧ s.blk.txlen.toNat = s.params.txcap) ∧
    (r.err = .range ↔ (∃ k, i = .encRdbuf k ∧ s.params.txcap ≤ k) ∨
      ∃ k, i = .decRdbuf k ∧ s.params.cap ≤ k) ∧
    (r.err = .state ↔ i = .decNext ∧ s.blk.decPhase ≠ .hold) ∧
    ErrCode.ok.code = 0#3 ∧ ErrCode.illegal.code = 1#3 ∧ ErrCode.busy.code = 2#3 ∧ ErrCode.full.code = 3#3 ∧
    ErrCode.range.code = 4#3 ∧ ErrCode.state.code = 5#3

/-- R66: the read commands write no register and no buffer byte; repeating one at once gives the same response, where a
buffer read is of a byte that was written (of an unwritten byte U1 holds, the model's choice of log 13); and SRST,
CK_CLR, ENC_CLR, DEC_ABORT and DEC_CLRZ are idempotent. -/
def Obligations.ReadsWriteNothingAndClearsRepeat : Prop :=
  (∀ (i : Instr) (s t : State),
    (i = .nop ∨ i = .cfg ∨ i = .status ∨ i = .ckRd ∨ i = .encRdcnt ∨ i = .encRdck ∨ i = .decRdck ∨ i = .decRdcnt ∨
      (∃ k, i = .encRdbuf k) ∨ ∃ k, i = .decRdbuf k) →
    exec i s = .next t → t.blk = s.blk ∧
    ((∀ k, i = .encRdbuf k → k < s.params.txcap → Memory.read? s.blk.tx k ≠ none) →
      (∀ k, i = .decRdbuf k → k < s.params.cap → Memory.read? s.blk.rx k ≠ none) →
      ∀ u, exec i t = .next u → u.rsp = t.rsp)) ∧
  (∀ (i : Instr) (s t u : State),
    (i = .srst ∨ i = .ckClr ∨ i = .encClr ∨ i = .decAbort ∨ i = .decClrz) →
    exec i s = .next t → exec i t = .next u → u.blk = t.blk)

/-- The frame of every command: no command changes an input or an earlier observation, and each unit's registers and
buffer change only by that unit's own commands and SRST (R28's last column; R109). -/
def Obligations.CommandsWriteTheirUnitOnly : Prop :=
  ∀ (i : Instr) (s t : State), exec i s = .next t →
    SameInputs s t ∧
    (i ≠ .srst → i ≠ .ckClr → (∀ d, i ≠ .ckByte d) → SameCk s.blk t.blk) ∧
    (i ≠ .srst → i ≠ .encClr → i ≠ .encSend → (∀ d, i ≠ .encLoad d) → SameEnc s.blk t.blk) ∧
    (i ≠ .srst → i ≠ .decNext → i ≠ .decAbort → SameDecFrame s.blk t.blk) ∧
    (i ≠ .srst → i ≠ .decClrz → t.blk.zlen = s.blk.zlen)

/-! ### Device commands (44_device.md) -/

/-- R190: NOP answers (ERR_OK, 0x0000) in every state and writes no state. -/
def Obligations.NopAnswersZero : Prop :=
  IsZCommand 0x00#8 .nop ∧
  ∀ s : State, exec .nop s = .next { s with rsp := some ⟨.ok, 0x0000#16⟩ }

/-- R191: SRST puts every register at its reset value in every state, leaves RX and TX unchanged, answers
(ERR_OK, 0x0000), and STATUS becomes 0x0000. -/
def Obligations.SrstResetsRegisters : Prop :=
  IsZCommand 0x01#8 .srst ∧
  ∀ s : State, ∃ t : State,
    exec .srst s = .next t ∧
    t = { s with
      rsp := some ⟨.ok, 0x0000#16⟩
      blk := { ckS1 := 0x00#8, ckS2 := 0x00#8, txlen := 0x00#8, encIdx := 0x00#8, encCk := 0x0000#16,
               encPhase := .idle, decPhase := .hunt, decResult := .none, decLen := 0x00#8, decIdx := 0x00#8,
               decS1 := 0x00#8, decS2 := 0x00#8, zlen := false, rx := s.blk.rx, tx := s.blk.tx } } ∧
    SameBuffers s.blk t.blk ∧ t.blk.status = 0x0000#16

/-- R192: CFG answers `{CAP - 1, TXCAP}` and writes no state; with CAP = 128 and TXCAP = 255 that is 0x7FFF. For any
parameters of R7 and R9 each byte states its capacity, and `LMAX` is found from the high one. -/
def Obligations.CfgAnswersCapacities : Prop :=
  IsZCommand 0x02#8 .cfg ∧
  (∀ s : State, s.params = Config.params → exec .cfg s = .next { s with rsp := some ⟨.ok, 0x7FFF#16⟩ }) ∧
  ∀ s : State, s.params.wf = true → ∃ v : Word,
    exec .cfg s = .next { s with rsp := some ⟨.ok, v⟩ } ∧
    (hiByte v).toNat = s.params.cap - 1 ∧ (loByte v).toNat = s.params.txcap ∧
    (hiByte v).toNat + 1 - 3 = s.params.lmax

/-- R193: STATUS answers the status word of the state and writes no state; with R44's layout, the codes of R34, R40 and
R41 in it, reset gives 0x0000,
holding OK 0x004E, CKFAIL 0x0056, LENOVF 0x005E, and ENC in START 0x0900. -/
def Obligations.StatusAnswersStatusWord : Prop :=
  IsZCommand 0x03#8 .status ∧
  (∀ s : State, exec .status s = .next { s with rsp := some ⟨.ok, s.blk.status⟩ }) ∧
  ∀ b : Block,
    b.status.extractLsb' 0 3 = b.decPhase.code ∧
    b.status.extractLsb' 3 2 = b.decResult.code ∧
    b.status.getLsbD 5 = b.zlen ∧
    b.status.getLsbD 6 = decide (b.decPhase = .hold) ∧
    b.status.getLsbD 7 = false ∧
    b.status.extractLsb' 8 3 = b.encPhase.code ∧
    b.status.getLsbD 11 = decide (b.encPhase ≠ .idle) ∧
    b.status.extractLsb' 12 4 = 0b0000#4 ∧
    b.status.extractLsb' 0 3 ≠ 7#3 ∧ b.status.extractLsb' 8 3 ≠ 7#3 ∧
    Block.reset.status = 0x0000#16 ∧
    (b.zlen = false → b.encPhase = .idle → b.decPhase = .hold →
      (b.decResult = .ok → b.status = 0x004E#16) ∧
      (b.decResult = .ckfail → b.status = 0x0056#16) ∧
      (b.decResult = .lenovf → b.status = 0x005E#16)) ∧
    (b.zlen = false → b.encPhase = .start → b.decPhase = .hunt → b.decResult = .none → b.status = 0x0900#16) ∧
    (EncPhase.idle.code = 0#3 ∧ EncPhase.start.code = 1#3 ∧ EncPhase.len.code = 2#3 ∧ EncPhase.data.code = 3#3 ∧
      EncPhase.esc2.code = 4#3 ∧ EncPhase.ck1.code = 5#3 ∧ EncPhase.ck2.code = 6#3) ∧
    (DecPhase.hunt.code = 0#3 ∧ DecPhase.len.code = 1#3 ∧ DecPhase.data.code = 2#3 ∧ DecPhase.esc.code = 3#3 ∧
      DecPhase.ck1.code = 4#3 ∧ DecPhase.ck2.code = 5#3 ∧ DecPhase.hold.code = 6#3) ∧
    (DecResult.none.code = 0#2 ∧ DecResult.ok.code = 1#2 ∧ DecResult.ckfail.code = 2#2 ∧ DecResult.lenovf.code = 3#2)

/-! ### Unit CK (41_checksum.md) -/

/-- R106: CK_CLR clears the standalone accumulators in every state, writes nothing else and answers
(ERR_OK, 0x0000). -/
def Obligations.CkClrClearsSums : Prop :=
  IsZCommand 0x10#8 .ckClr ∧
  ∀ s : State, exec .ckClr s = .next { s with
    rsp := some ⟨.ok, 0x0000#16⟩
    blk := { s.blk with ckS1 := 0x00#8, ckS2 := 0x00#8 } }

/-- R107, R102: CK_BYTE d completes in every state, writes only the two accumulators, answers (ERR_OK, 0x0000), and
from accumulators in 0..254 gives `((s1 + d) mod 255, (s2 + ((s1 + d) mod 255)) mod 255)`. -/
def Obligations.CkByteAddsModulo255 : Prop :=
  IsOperandCommand 0x11#8 .ckByte ∧
  ∀ (d : Byte) (s : State), ∃ t : State,
    exec (.ckByte d) s = .next t ∧
    t = { s with
      rsp := some ⟨.ok, 0x0000#16⟩
      blk := { s.blk with ckS1 := t.blk.ckS1, ckS2 := t.blk.ckS2 } } ∧
    (s.blk.ckS1.toNat ≤ 254 → s.blk.ckS2.toNat ≤ 254 →
      t.blk.ckS1.toNat = (s.blk.ckS1.toNat + d.toNat) % 255 ∧
      t.blk.ckS2.toNat = (s.blk.ckS2.toNat + (s.blk.ckS1.toNat + d.toNat) % 255) % 255)

/-- R108, R128, R129, R174, R175: the register reads answer in every state, with the first-named byte in bits 15..8
(R61), and write no state. -/
def Obligations.RegisterReadsAnswer : Prop :=
  IsZCommand 0x12#8 .ckRd ∧ IsZCommand 0x23#8 .encRdcnt ∧ IsZCommand 0x24#8 .encRdck ∧
  IsZCommand 0x33#8 .decRdck ∧ IsZCommand 0x34#8 .decRdcnt ∧
  ∀ s : State,
    exec .ckRd s = .next { s with
      rsp := some ⟨.ok, BitVec.ofNat 16 (s.blk.ckS1.toNat * 256 + s.blk.ckS2.toNat)⟩ } ∧
    exec .encRdcnt s = .next { s with
      rsp := some ⟨.ok, BitVec.ofNat 16 (s.blk.encIdx.toNat * 256 + s.blk.txlen.toNat)⟩ } ∧
    exec .encRdck s = .next { s with rsp := some ⟨.ok, s.blk.encCk⟩ } ∧
    exec .decRdck s = .next { s with
      rsp := some ⟨.ok, BitVec.ofNat 16 (s.blk.decS1.toNat * 256 + s.blk.decS2.toNat)⟩ } ∧
    exec .decRdcnt s = .next { s with
      rsp := some ⟨.ok, BitVec.ofNat 16 (s.blk.decLen.toNat * 256 + s.blk.decIdx.toNat)⟩ }

/-- R103, R88: from any state outside reset, CK_SEQ over any bytes followed by CK_RD answers with `fletcher16` of the
bytes, every command of the sequence answering ERR_OK. -/
def Obligations.CkSequenceGivesFletcher16 : Prop :=
  ∀ (bs : List Byte) (s : State), s.rstN = true → ∃ t : State,
    playTurns (((AsmLine.pseudo (.ckSeq bs)).words ++ [0x1200#16]).map .cmd) s = .next t ∧
    t.rsp = some ⟨.ok, fletcher16 bs⟩ ∧
    t.cmdLog = s.cmdLog ++ (0x1000#16, ⟨.ok, 0x0000#16⟩) ::
      bs.map (fun b => (pack 0x11#8 b, ⟨.ok, 0x0000#16⟩)) ++ [(0x1200#16, ⟨.ok, fletcher16 bs⟩)] ∧
    t.blk = { s.blk with ckS1 := hiByte (fletcher16 bs), ckS2 := loByte (fletcher16 bs) }

/-- R102, R104: `fletcher16` has the closed form `s1 = (sum of d_j) mod 255`, `s2 = (sum of (n - j) * d_j) mod 255`;
so both bytes are in 0..254, and 0xFF never occurs as a checksum byte. -/
def Obligations.FletcherClosedForm : Prop :=
  ∀ bs : List Byte,
    (hiByte (fletcher16 bs)).toNat = (bs.map BitVec.toNat).sum % 255 ∧
    (loByte (fletcher16 bs)).toNat =
      ((List.range bs.length).map fun j => (bs.length - j) * ((bs[j]?).getD 0x00#8).toNat).sum % 255 ∧
    hiByte (fletcher16 bs) ≠ 0xFF#8 ∧ loByte (fletcher16 bs) ≠ 0xFF#8

/-- R104, read with R102: exchanging two adjacent bytes leaves `s1` alone, and changes `s2` exactly when the two
bytes differ modulo 255. R104 says "unequal"; 0x00 and 0xFF are unequal and leave `s2` alone, by R102 (log 23). -/
def Obligations.ExchangeChangesSecondSum : Prop :=
  (∀ (as cs : List Byte) (a b : Byte),
    hiByte (fletcher16 (as ++ a :: b :: cs)) = hiByte (fletcher16 (as ++ b :: a :: cs)) ∧
    (loByte (fletcher16 (as ++ a :: b :: cs)) = loByte (fletcher16 (as ++ b :: a :: cs)) ↔
      a.toNat % 255 = b.toNat % 255)) ∧
  fletcher16 [0x01#8, 0x02#8] = 0x0304#16 ∧ fletcher16 [0x02#8, 0x01#8] = 0x0305#16

/-- R105: the 8-bit formulation with an end-around carry agrees with `fl_step` for every accumulator in 0..254 and
every byte. -/
def Obligations.CarryFormAgrees : Prop :=
  ∀ s1 s2 d : Byte, s1.toNat ≤ 254 → s2.toNat ≤ 254 → flStepCarry (s1, s2) d = flStep (s1, s2) d

/-! ### Unit ENC: commands (42_encoder.md) -/

/-- R125: ENC_CLR empties the payload while ENC is idle, keeping TX, `enc_idx` and `enc_ck`; while a frame is being
emitted it answers ERR_BUSY and writes nothing. -/
def Obligations.EncClrEmptiesPayload : Prop :=
  IsZCommand 0x20#8 .encClr ∧
  ∀ s : State,
    (s.blk.encPhase = .idle → exec .encClr s = .next { s with
      rsp := some ⟨.ok, 0x0000#16⟩
      blk := { s.blk with txlen := 0x00#8 } }) ∧
    (s.blk.encPhase ≠ .idle → exec .encClr s = .next { s with rsp := some ⟨.busy, 0x0000#16⟩ })

/-- R126: ENC_LOAD d while ENC is idle and TX is not full stores `d` at index `txlen` and adds one to `txlen`, every
other byte and register unchanged; busy, it answers ERR_BUSY, full (`txlen = TXCAP`) and idle, ERR_FULL, and writes
nothing. For every TXCAP of R9; `txlen > TXCAP` is no reachable state (R45). -/
def Obligations.EncLoadAppendsByte : Prop :=
  IsOperandCommand 0x21#8 .encLoad ∧
  ∀ (d : Byte) (s : State), s.params.wf = true →
    (s.blk.encPhase ≠ .idle → exec (.encLoad d) s = .next { s with rsp := some ⟨.busy, 0x0000#16⟩ }) ∧
    (s.blk.encPhase = .idle → s.blk.txlen.toNat = s.params.txcap →
      exec (.encLoad d) s = .next { s with rsp := some ⟨.full, 0x0000#16⟩ }) ∧
    (s.blk.encPhase = .idle → s.blk.txlen.toNat < s.params.txcap → ∃ t : State,
      exec (.encLoad d) s = .next t ∧
      t = { s with
        rsp := some ⟨.ok, 0x0000#16⟩
        blk := { s.blk with txlen := t.blk.txlen, tx := t.blk.tx } } ∧
      t.blk.txlen.toNat = s.blk.txlen.toNat + 1 ∧
      StoredAt s.blk.tx t.blk.tx s.blk.txlen.toNat d)

/-- R127: ENC_SEND while ENC is idle latches `fletcher16([txlen] ++ payload)`, puts `enc_idx` at 0 and the phase at
START, and changes nothing else; it completes whatever TX holds, where `txlen <= TXCAP` as in every reachable state
(R45); busy, it answers ERR_BUSY and writes nothing. -/
def Obligations.EncSendStartsFrame : Prop :=
  IsZCommand 0x22#8 .encSend ∧
  ∀ s : State, s.blk.txlen.toNat ≤ s.params.txcap →
    (s.blk.encPhase ≠ .idle → exec .encSend s = .next { s with rsp := some ⟨.busy, 0x0000#16⟩ }) ∧
    (s.blk.encPhase = .idle → ∀ p, HoldsPayload s.blk p →
      exec .encSend s = .next { s with
        rsp := some ⟨.ok, 0x0000#16⟩
        blk := { s.blk with encCk := fletcher16 (s.blk.txlen :: p), encIdx := 0x00#8, encPhase := .start } }) ∧
    (s.blk.encPhase = .idle → ∃ t : State,
      exec .encSend s = .next t ∧
      t = { s with
        rsp := some ⟨.ok, 0x0000#16⟩
        freeIdx := t.freeIdx
        blk := { s.blk with encCk := t.blk.encCk, encIdx := 0x00#8, encPhase := .start } })

/-- R130: ENC_RDBUF i answers ERR_RANGE for `i >= TXCAP`, else the byte at index `i`; a byte not written since
hard reset is any byte (U1). No register and no buffer byte is written. -/
def Obligations.EncRdbufReadsTx : Prop :=
  IsOperandCommand 0x25#8 (fun x => .encRdbuf x.toNat) ∧
  ∀ (i : Nat) (s : State),
    (s.params.txcap ≤ i → exec (.encRdbuf i) s = .next { s with rsp := some ⟨.range, 0x0000#16⟩ }) ∧
    (i < s.params.txcap → ∃ (v : Byte) (t : State),
      exec (.encRdbuf i) s = .next t ∧
      t = { s with rsp := some ⟨.ok, v.setWidth 16⟩, freeIdx := t.freeIdx } ∧
      ∀ u, Memory.read? s.blk.tx i = some u → v = u ∧ t.freeIdx = s.freeIdx)

/-- R88, R125 to R127: ENC_FRAME of up to TXCAP bytes, from any idle state outside reset, loads exactly those bytes
and starts their frame, every command answering ERR_OK. ENC_ACK and ENC_NAK stand for ENC_FRAME 0x1D and
ENC_FRAME 0x1E, and DEC_TAKE for DEC_NEXT. -/
def Obligations.EncFrameLoadsAndStarts : Prop :=
  (AsmLine.pseudo .encAck).words = (AsmLine.pseudo (.encFrame [0x1D#8])).words ∧
  (AsmLine.pseudo .encNak).words = (AsmLine.pseudo (.encFrame [0x1E#8])).words ∧
  (AsmLine.pseudo .decTake).words = (AsmLine.cmd .decNext).words ∧
  ∀ (p : List Byte) (s : State), s.params.wf = true → p.length ≤ s.params.txcap → s.rstN = true → s.blk.encPhase = .idle → ∃ t : State,
    playTurns ((AsmLine.pseudo (.encFrame p)).words.map .cmd) s = .next t ∧
    HoldsPayload t.blk p ∧ t.blk.encPhase = .start ∧ t.blk.encIdx = 0x00#8 ∧ t.blk.encCk = frameCk p ∧
    SameCk s.blk t.blk ∧ SameDec s.blk t.blk ∧ t.rxq = s.rxq ∧ t.txLog = s.txLog ∧ t.rstN = true ∧ t.sched = s.sched ∧
    ∃ l, t.cmdLog = s.cmdLog ++ l ∧ l.length = p.length + 2 ∧ ∀ c ∈ l, c.2 = ⟨.ok, 0x0000#16⟩

/-! ### Unit ENC: the TXL step and the wire image (42_encoder.md) -/

/-- R132, R133, R136, R137: the bytes TXL takes literally: the start marker, the length byte (whatever its value),
and the two checksum bytes, high byte first; with what each step writes. -/
def Obligations.TxlLiteralBytes : Prop :=
  ∀ (s : State) (rest : List Turn), s.sched = .txl :: rest → s.rstN = true →
    (s.blk.encPhase = .start → step s = .next { s with
      sched := rest, rsp := none, txLog := s.txLog ++ [0x7E#8]
      blk := { s.blk with encPhase := .len } }) ∧
    (s.blk.encPhase = .len → step s = .next { s with
      sched := rest, rsp := none, txLog := s.txLog ++ [s.blk.txlen]
      blk := { s.blk with
        encIdx := 0x00#8
        encPhase := if s.blk.txlen = 0x00#8 then .ck1 else .data } }) ∧
    (s.blk.encPhase = .ck1 → step s = .next { s with
      sched := rest, rsp := none, txLog := s.txLog ++ [s.blk.encCk.extractLsb' 8 8]
      blk := { s.blk with encPhase := .ck2 } }) ∧
    (s.blk.encPhase = .ck2 → step s = .next { s with
      sched := rest, rsp := none, txLog := s.txLog ++ [s.blk.encCk.extractLsb' 0 8]
      blk := { s.blk with encPhase := .idle } })

/-- R134, R135: in DATA, TXL takes the payload byte, or the escape lead 0x7D for 0x7E and 0x7D with `enc_idx` kept;
in ESC2 it takes the byte XOR 0x20; after the last payload byte the phase is CK1. -/
def Obligations.TxlPayloadBytes : Prop :=
  ∀ (s : State) (rest : List Turn) (b : Byte), s.sched = .txl :: rest → s.rstN = true →
    s.blk.encIdx.toNat < s.params.txcap → Memory.read? s.blk.tx s.blk.encIdx.toNat = some b →
    (s.blk.encPhase = .data → b = 0x7E#8 ∨ b = 0x7D#8 → step s = .next { s with
      sched := rest, rsp := none, txLog := s.txLog ++ [0x7D#8]
      blk := { s.blk with encPhase := .esc2 } }) ∧
    (s.blk.encPhase = .data → b ≠ 0x7E#8 → b ≠ 0x7D#8 → step s = .next { s with
      sched := rest, rsp := none, txLog := s.txLog ++ [b]
      blk := { s.blk with
        encIdx := BitVec.ofNat 8 (s.blk.encIdx.toNat + 1)
        encPhase := if s.blk.encIdx.toNat + 1 = s.blk.txlen.toNat then .ck1 else .data } }) ∧
    (s.blk.encPhase = .esc2 → step s = .next { s with
      sched := rest, rsp := none, txLog := s.txLog ++ [b ^^^ 0x20#8]
      blk := { s.blk with
        encIdx := BitVec.ofNat 8 (s.blk.encIdx.toNat + 1)
        encPhase := if s.blk.encIdx.toNat + 1 = s.blk.txlen.toNat then .ck1 else .data } })

/-- R123: the wire image of a payload of `n` bytes with `k` of them 0x7E or 0x7D has exactly `n + k + 4` bytes. -/
def Obligations.WireImageLength : Prop :=
  ∀ p : List Byte,
    (wireImage p).length = p.length + p.countP (fun b => decide (b = 0x7E#8 ∨ b = 0x7D#8)) + 4

/-- R124: in the escaped payload span the byte 0x7E never occurs, and 0x7D occurs only followed by 0x5E or 0x5D;
neither checksum byte of a wire image is 0xFF. -/
def Obligations.EscapedSpanIsUnambiguous : Prop :=
  ∀ p : List Byte,
    0x7E#8 ∉ escAll p ∧
    (∀ j, (escAll p)[j]? = some 0x7D#8 →
      (escAll p)[j + 1]? = some 0x5E#8 ∨ (escAll p)[j + 1]? = some 0x5D#8) ∧
    hiByte (frameCk p) ≠ 0xFF#8 ∧ loByte (frameCk p) ≠ 0xFF#8 ∧
    wireImage p = [0x7E#8, lenByte p] ++ escAll p ++ [hiByte (frameCk p), loByte (frameCk p)]

/-- R138: from an ENC_SEND with the payload `p` in TX, exactly `len(p) + k + 4` TXL steps emit exactly `encode(p)`, in
order, and leave ENC idle, with TX, `txlen` and `enc_ck` kept (R140). -/
def Obligations.SendEmitsWireImage : Prop :=
  ∀ (s : State) (p : List Byte), p.length ≤ s.params.txcap → s.rstN = true → s.blk.encPhase = .idle →
    HoldsPayload s.blk p → ∃ t : State,
      playTurns (.cmd 0x2200#16 :: List.replicate (p.length + escCount p + 4) .txl) s = .next t ∧
      t.txLog = s.txLog ++ wireImage p ∧
      t.blk = { s.blk with encCk := frameCk p, encIdx := s.blk.txlen, encPhase := .idle } ∧
      t.sched = s.sched ∧ t.rxq = s.rxq

/-- R65, R138: frames are contiguous on the wire. While a frame of payload `p` is being emitted, any step of any agent,
less a hard reset and SRST, keeps the payload and the latched checksum, and what was emitted followed by what is
still to be emitted stays the same sequence. -/
def Obligations.EmissionIsContiguous : Prop :=
  ∀ (s t : State) (p : List Byte) (turn : Turn) (rest : List Turn), Inv s → s.sched = turn :: rest →
    turn ≠ .rstLow → turn ≠ .cmd 0x0100#16 → s.blk.encPhase ≠ .idle → HoldsPayload s.blk p →
    step s = .next t →
    HoldsPayload t.blk p ∧ t.blk.encCk = s.blk.encCk ∧
    t.txLog ++ unsent p t.blk = s.txLog ++ unsent p s.blk ∧
    (turn = .txl → s.rstN = true → (unsent p t.blk).length + 1 = (unsent p s.blk).length)

/-! ### Unit DEC: the RXL step (43_decoder.md) -/

/-- R152: in HUNT, 0x7E moves DEC to LEN and every other byte, 0x7D included, is discarded and leaves no trace in the
block. -/
def Obligations.RxlHuntsForStart : Prop :=
  ∀ (s : State) (rest : List Turn) (w : Byte) (ws : List Byte), s.sched = .rxl :: rest → s.rstN = true →
    s.rxq = w :: ws → s.blk.decPhase = .hunt →
    (w = 0x7E#8 → step s = .next { s with
      sched := rest, rsp := none, rxq := ws, rxLog := s.rxLog ++ [w]
      blk := { s.blk with decPhase := .len } }) ∧
    (w ≠ 0x7E#8 → step s = .next { s with sched := rest, rsp := none, rxq := ws, rxLog := s.rxLog ++ [w] })

/-- R153 to R156: in LEN the byte is the length, stored at RX[0] whatever it is, with `dec_idx` at 0 and the sums
started over it; 1..LMAX goes to DATA, 0 sets `zlen` and goes back to HUNT, above LMAX holds LENOVF. -/
def Obligations.RxlTakesLength : Prop :=
  ∀ (s : State) (rest : List Turn) (w : Byte) (ws : List Byte), s.sched = .rxl :: rest → s.rstN = true →
    s.rxq = w :: ws → s.blk.decPhase = .len → s.params.wf = true → ∃ t : State,
      step s = .next t ∧
      StoredAt s.blk.rx t.blk.rx 0 w ∧
      t = { s with
        sched := rest, rsp := none, rxq := ws, rxLog := s.rxLog ++ [w]
        blk := { s.blk with
          rx := t.blk.rx
          decLen := w
          decIdx := 0x00#8
          decS1 := (flStep (0x00#8, 0x00#8) w).1
          decS2 := (flStep (0x00#8, 0x00#8) w).2
          zlen := if w = 0x00#8 then true else s.blk.zlen
          decResult := if s.params.lmax < w.toNat then .lenovf else s.blk.decResult
          decPhase := if w = 0x00#8 then .hunt else if s.params.lmax < w.toNat then .hold else .data } }

/-- R157, R158, R159: in DATA the escape lead 0x7D goes to ESC with nothing stored, and any other byte, 0x7E included
(R162), is stored; in ESC any byte is stored XOR 0x20. A stored byte goes to RX[1 + dec_idx], the sums take it, and
after the last one the phase is CK1. -/
def Obligations.RxlTakesPayload : Prop :=
  ∀ (s : State) (rest : List Turn) (w : Byte) (ws : List Byte), s.sched = .rxl :: rest → s.rstN = true →
    s.rxq = w :: ws → 1 + s.blk.decIdx.toNat < s.params.cap →
    (s.blk.decPhase = .data → w = 0x7D#8 → step s = .next { s with
      sched := rest, rsp := none, rxq := ws, rxLog := s.rxLog ++ [w]
      blk := { s.blk with decPhase := .esc } }) ∧
    ∀ v : Byte, (s.blk.decPhase = .data ∧ w ≠ 0x7D#8 ∧ v = w) ∨ (s.blk.decPhase = .esc ∧ v = w ^^^ 0x20#8) →
      ∃ t : State,
        step s = .next t ∧
        StoredAt s.blk.rx t.blk.rx (1 + s.blk.decIdx.toNat) v ∧
        t = { s with
          sched := rest, rsp := none, rxq := ws, rxLog := s.rxLog ++ [w]
          blk := { s.blk with
            rx := t.blk.rx
            decIdx := BitVec.ofNat 8 (s.blk.decIdx.toNat + 1)
            decS1 := (flStep (s.blk.decS1, s.blk.decS2) v).1
            decS2 := (flStep (s.blk.decS1, s.blk.decS2) v).2
            decPhase := if s.blk.decIdx.toNat + 1 = s.blk.decLen.toNat then .ck1 else .data } }

/-- R160, R161: the two checksum bytes are taken literally and stored at RX[dec_len + 1] and RX[dec_len + 2]; after the
second, DEC holds OK when the pair, high byte first, equals `{dec_s1, dec_s2}`, and CKFAIL otherwise. -/
def Obligations.RxlJudgesChecksum : Prop :=
  ∀ (s : State) (rest : List Turn) (w : Byte) (ws : List Byte), s.sched = .rxl :: rest → s.rstN = true →
    s.rxq = w :: ws → s.blk.decLen.toNat + 2 < s.params.cap →
    (s.blk.decPhase = .ck1 → ∃ t : State,
      step s = .next t ∧
      StoredAt s.blk.rx t.blk.rx (s.blk.decLen.toNat + 1) w ∧
      t = { s with
        sched := rest, rsp := none, rxq := ws, rxLog := s.rxLog ++ [w]
        blk := { s.blk with rx := t.blk.rx, decPhase := .ck2 } }) ∧
    (s.blk.decPhase = .ck2 → ∀ hi, Memory.read? s.blk.rx (s.blk.decLen.toNat + 1) = some hi → ∃ t : State,
      step s = .next t ∧
      StoredAt s.blk.rx t.blk.rx (s.blk.decLen.toNat + 2) w ∧
      t = { s with
        sched := rest, rsp := none, rxq := ws, rxLog := s.rxLog ++ [w]
        blk := { s.blk with
          rx := t.blk.rx
          decResult := if hi = s.blk.decS1 ∧ w = s.blk.decS2 then .ok else .ckfail
          decPhase := .hold } })

/-- R25, R26, R240: a turn of an agent that has no enabled step changes nothing: RXL while DEC holds or with no byte to
offer, TXL while ENC is idle, and any agent while `rst_n` is 0. -/
def Obligations.WaitingAgentsChangeNothing : Prop :=
  ∀ (s : State) (turn : Turn) (rest : List Turn), s.sched = turn :: rest →
    ((turn = .rxl ∧ (s.blk.decPhase = .hold ∨ s.rxq = [])) ∨ (turn = .txl ∧ s.blk.encPhase = .idle) ∨
      (s.rstN = false ∧ turn ≠ .rstLow ∧ turn ≠ .rstHigh)) →
    step s = .next { s with sched := rest, rsp := none }

/-- R163: from HUNT, the RXL steps over the offered bytes compute `decode_one`: they consume as many bytes, end in HOLD
with the same outcome and the same bytes in RX, or wait in an unfinished phase, and set `zlen` as it says. -/
def Obligations.RxlStepsComputeDecodeOne : Prop :=
  ∀ s : State, s.params.wf = true → s.rstN = true → s.blk.decPhase = .hunt → s.blk.decResult = .none →
    ∃ t : State,
      playTurns (List.replicate (decodeOne s.params s.rxq).consumed .rxl) s = .next t ∧
      t.rxq = s.rxq.drop (decodeOne s.params s.rxq).consumed ∧
      t.blk.zlen = (s.blk.zlen || (decodeOne s.params s.rxq).zlen) ∧
      t.blk.decResult = (decodeOne s.params s.rxq).outcome.result ∧
      (t.blk.decPhase = .hold ↔ (decodeOne s.params s.rxq).outcome ≠ .pending) ∧
      ((decodeOne s.params s.rxq).outcome = .pending → t.rxq = []) ∧
      HoldsAt t.blk.rx 0 (decodeOne s.params s.rxq).outcome.rxBytes ∧
      SameCk s.blk t.blk ∧ SameEnc s.blk t.blk ∧ t.txLog = s.txLog ∧ t.sched = s.sched

/-- R164: round trip. From HUNT, `encode(p)` of any payload of 1 to LMAX bytes is decoded to an OK outcome with
the length, the payload and the checksum in RX and the recomputed checksum in the sums, consuming exactly its
bytes; R36: the bytes of RX beyond index L + 2 keep what they held. -/
def Obligations.RoundTripOfWireImage : Prop :=
  ∀ (s : State) (p more : List Byte), s.params.wf = true → s.rstN = true → s.blk.decPhase = .hunt →
    1 ≤ p.length → p.length ≤ s.params.lmax → s.rxq = wireImage p ++ more → ∃ t : State,
      playTurns (List.replicate (wireImage p).length .rxl) s = .next t ∧
      t.blk.decPhase = .hold ∧ t.blk.decResult = .ok ∧ t.rxq = more ∧
      HoldsAt t.blk.rx 0 (lenByte p :: p ++ [hiByte (frameCk p), loByte (frameCk p)]) ∧
      pack t.blk.decS1 t.blk.decS2 = frameCk p ∧ t.blk.decLen = lenByte p ∧ t.blk.decIdx = lenByte p ∧
      t.blk.zlen = s.blk.zlen ∧ SameCk s.blk t.blk ∧ SameEnc s.blk t.blk ∧
      ∀ j, p.length + 2 < j → Memory.read? t.blk.rx j = Memory.read? s.blk.rx j

/-- R165: resynchronization. From HUNT, garbage without 0x7E followed by `encode(p)` ends exactly as R164 says, with one
OK frame, the garbage discarded. -/
def Obligations.GarbageThenFrameIsDecoded : Prop :=
  ∀ (s : State) (g p more : List Byte), s.params.wf = true → s.rstN = true → s.blk.decPhase = .hunt → 0x7E#8 ∉ g →
    1 ≤ p.length → p.length ≤ s.params.lmax → s.rxq = g ++ wireImage p ++ more → ∃ t : State,
      playTurns (List.replicate (g.length + (wireImage p).length) .rxl) s = .next t ∧
      t.blk.decPhase = .hold ∧ t.blk.decResult = .ok ∧ t.rxq = more ∧
      HoldsAt t.blk.rx 0 (lenByte p :: p ++ [hiByte (frameCk p), loByte (frameCk p)]) ∧
      pack t.blk.decS1 t.blk.decS2 = frameCk p ∧ t.blk.zlen = s.blk.zlen

/-- R164 with R138, in the notation of R89: from reset at any capacities, ENC_FRAME of any payload of 1 to LMAX bytes that TX can hold, the bytes TXL took
looped back to RXL, ends with DEC holding OK and the payload in RX. -/
def Obligations.LoopbackDeliversPayload : Prop :=
  ∀ (P : Params) (p : List Byte), P.wf = true → 1 ≤ p.length → p.length ≤ P.lmax → p.length ≤ P.txcap → ∃ t u : State,
    runProgram [.line (.pseudo (.encFrame p)), .runTx] { State.reset with params := P } = .next t ∧
    runProgram [.rx t.txLog, .runRx] t = .next u ∧
    t.txLog = wireImage p ∧ t.blk.encPhase = .idle ∧
    u.blk.decPhase = .hold ∧ u.blk.decResult = .ok ∧ u.rxq = [] ∧ HoldsAt u.blk.rx 1 p ∧
    u.blk.status = 0x004E#16

/-- R258: once the start marker was taken, a decode attempt ends within `1 + 2 * LMAX + 2` received bytes (253 of
them with CAP = 128), whatever they are. -/
def Obligations.AttemptEndsInTime : Prop :=
  ∀ s : State, Inv s → s.rstN = true → s.blk.decPhase = .len → 1 + 2 * s.params.lmax + 2 ≤ s.rxq.length →
    ∃ (n : Nat) (t : State), 1 ≤ n ∧ n ≤ 1 + 2 * s.params.lmax + 2 ∧ playTurns (List.replicate n .rxl) s = .next t ∧
      (t.blk.decPhase = .hunt ∨ t.blk.decPhase = .hold) ∧ t.rxq = s.rxq.drop n

/-- R25, R70, R169, R216: while an outcome is held, any step that does not lift the hold changes nothing of the held
frame; and only DEC_NEXT, DEC_ABORT, SRST and a hard reset lift it, so `irq_frame` falls by these alone. -/
def Obligations.HeldFrameStaysUntilReleased : Prop :=
  ∀ (s t : State) (turn : Turn) (rest : List Turn), s.sched = turn :: rest → s.blk.decPhase = .hold →
    step s = .next t →
    (t.blk.decPhase = .hold ∧ SameDecFrame s.blk t.blk ∧
      (irqFrame s = true → irqFrame t = true)) ∨
    turn = .rstLow ∨ turn = .cmd 0x3000#16 ∨ turn = .cmd 0x3100#16 ∨ turn = .cmd 0x0100#16

/-- R171: a decode attempt ends only by a received byte, DEC_ABORT, SRST or a hard reset; no other step of any agent
changes anything of it. -/
def Obligations.AttemptEndsOnlyAsNamed : Prop :=
  ∀ (s t : State) (turn : Turn) (rest : List Turn), s.sched = turn :: rest → s.blk.decPhase.inAttempt = true →
    step s = .next t →
    SameDecFrame s.blk t.blk ∨ turn = .rxl ∨ turn = .rstLow ∨ turn = .cmd 0x3100#16 ∨ turn = .cmd 0x0100#16

/-- R42: `zlen` is sticky: only DEC_CLRZ, SRST and a hard reset clear it, and only an RXL step sets it. -/
def Obligations.ZlenIsSticky : Prop :=
  ∀ (s t : State) (turn : Turn) (rest : List Turn), s.sched = turn :: rest → step s = .next t →
    (s.blk.zlen = true → t.blk.zlen = false →
      turn = .rstLow ∨ turn = .cmd 0x3500#16 ∨ turn = .cmd 0x0100#16) ∧
    (s.blk.zlen = false → t.blk.zlen = true → turn = .rxl ∧ s.blk.decPhase = .len ∧ s.rxq.head? = some 0x00#8)

/-! ### Unit DEC: commands (43_decoder.md) -/

/-- R170: DEC_NEXT in HOLD leaves `dec_result` NONE and the phase HUNT and changes nothing else; outside HOLD it
answers ERR_STATE and writes nothing. -/
def Obligations.DecNextReleasesHold : Prop :=
  IsZCommand 0x30#8 .decNext ∧
  ∀ s : State,
    (s.blk.decPhase = .hold → exec .decNext s = .next { s with
      rsp := some ⟨.ok, 0x0000#16⟩
      blk := { s.blk with decResult := .none, decPhase := .hunt } }) ∧
    (s.blk.decPhase ≠ .hold → exec .decNext s = .next { s with rsp := some ⟨.state, 0x0000#16⟩ })

/-- R172: DEC_ABORT leaves `dec_result` NONE and the phase HUNT from every phase, and changes nothing else. -/
def Obligations.DecAbortAbandonsAttempt : Prop :=
  IsZCommand 0x31#8 .decAbort ∧
  ∀ s : State, exec .decAbort s = .next { s with
    rsp := some ⟨.ok, 0x0000#16⟩
    blk := { s.blk with decResult := .none, decPhase := .hunt } }

/-- R173: DEC_RDBUF i answers ERR_RANGE for `i >= CAP`, else the byte at index `i`, in every phase and without
releasing HOLD; a byte not written since hard reset is any byte (U1). -/
def Obligations.DecRdbufReadsRx : Prop :=
  IsOperandCommand 0x32#8 (fun x => .decRdbuf x.toNat) ∧
  ∀ (i : Nat) (s : State),
    (s.params.cap ≤ i → exec (.decRdbuf i) s = .next { s with rsp := some ⟨.range, 0x0000#16⟩ }) ∧
    (i < s.params.cap → ∃ (v : Byte) (t : State),
      exec (.decRdbuf i) s = .next t ∧
      t = { s with rsp := some ⟨.ok, v.setWidth 16⟩, freeIdx := t.freeIdx } ∧
      ∀ u, Memory.read? s.blk.rx i = some u → v = u ∧ t.freeIdx = s.freeIdx)

/-- R176: DEC_CLRZ clears `zlen` in every phase and changes nothing else. -/
def Obligations.DecClrzClearsFlag : Prop :=
  IsZCommand 0x35#8 .decClrz ∧
  ∀ s : State, exec .decClrz s = .next { s with
    rsp := some ⟨.ok, 0x0000#16⟩
    blk := { s.blk with zlen := false } }

/-! ### Reset (70_reset_and_hazards.md) -/

/-- R240, R241: driving `rst_n` to 0, in any state, puts every register at its reset value, leaves no buffer byte
known, and holds `cmd_ready`, `rx_ready`, `tx_valid` and `irq_frame` at 0; nothing is answered, accepted or emitted;
a command, RXL and TXL then have no effect until `rst_n` returns to 1, which leaves the reset state of R241. -/
def Obligations.HardResetClearsBlock : Prop :=
  (∀ (s : State) (rest : List Turn), s.sched = .rstLow :: rest → ∃ t : State,
    step s = .next t ∧
    t = { s with
      sched := rest, rsp := none, rstN := false
      blk := { ckS1 := 0x00#8, ckS2 := 0x00#8, txlen := 0x00#8, encIdx := 0x00#8, encCk := 0x0000#16,
               encPhase := .idle, decPhase := .hunt, decResult := .none, decLen := 0x00#8, decIdx := 0x00#8,
               decS1 := 0x00#8, decS2 := 0x00#8, zlen := false, rx := [], tx := [] } } ∧
    cmdReady t = false ∧ rxReady t = false ∧ txValid t = false ∧ irqFrame t = false ∧ t.blk.status = 0x0000#16) ∧
  (∀ (s : State) (ts : List Turn), s.rstN = false → .rstLow ∉ ts → .rstHigh ∉ ts →
    playTurns (ts ++ [.rstHigh]) s = .next { s with rsp := none, rstN := true })

/-- R45's list, read with R125 (log 22), with the buffers in canonical form, at the reset state of this hardware and of
every instance with capacities in the ranges of R7 and R9. -/
def Obligations.InvHoldsAtReset : Prop :=
  Inv State.reset ∧ ∀ P : Params, P.wf = true → Inv { State.reset with params := P }

/-- Every step of every agent keeps the invariant: R45's list read with R125 (log 22: `enc_idx <= txlen` is claimed while
a frame is being emitted only), the buffers' form, the encoder's and the decoder's position. -/
def Obligations.StepKeepsInv : Prop := ∀ s t : State, Inv s → step s = .next t → Inv t

/-- From a state that meets the invariant no step faults or refuses: the block has no fault state (R151, R131). -/
def Obligations.InvStatesRun : Prop := ∀ s : State, Inv s → Runs s

/-- R45, read with R125 (log 22): every state reached from reset, at any capacities and whatever turns and received bytes
are placed, satisfies the list, with `enc_idx <= txlen` (R32) claimed while ENC emits; where no ENC_CLR was presented
it satisfies that clause in every phase as well. No step but ENC_CLR breaks the clause: from a state that meets the
invariant and the clause, every other step keeps it. -/
def Obligations.ReachableStatesMeetR45 : Prop :=
  (∀ (P : Params) (ts : List Turn) (bytes : List Byte), P.wf = true → ∃ t : State,
    playTurns ts { State.reset with params := P, rxq := bytes } = .next t ∧ Block.Facts P t.blk ∧
    (.cmd 0x2000#16 ∉ ts → t.blk.encIdx.toNat ≤ t.blk.txlen.toNat)) ∧
  ∀ (s t : State) (turn : Turn) (rest : List Turn), Inv s → s.sched = turn :: rest → turn ≠ .cmd 0x2000#16 →
    s.blk.encIdx.toNat ≤ s.blk.txlen.toNat → step s = .next t → t.blk.encIdx.toNat ≤ t.blk.txlen.toNat

/-- A state reached from reset has `enc_idx > txlen`: by R125 ENC_CLR empties the payload and keeps `enc_idx`. R45 lists
`enc_idx <= txlen` for every reachable state; the model follows R125 (log 22). -/
def Obligations.ClrAfterSendLeavesIdxAbove : Prop :=
  ∃ t : State,
    playTurns ([.cmd 0x2121#16, .cmd 0x2200#16, .txl, .txl, .txl, .txl, .txl, .cmd 0x2000#16, .cmd 0x2300#16])
      State.reset = .next t ∧
    t.blk.encPhase = .idle ∧ t.blk.txlen.toNat < t.blk.encIdx.toNat ∧ t.rsp = some ⟨.ok, 0x0100#16⟩ ∧
    t.txLog = [0x7E#8, 0x01#8, 0x21#8, 0x22#8, 0x23#8]

/-! ### Agents (10_state.md) -/

/-- R109, R23, R22: an RXL step changes nothing of CK and ENC and emits nothing; a TXL step changes nothing of CK and
DEC and accepts nothing; of ENC it writes only `enc_phase` and `enc_idx` (R131). Neither changes the capacities. -/
def Obligations.LineStepsStayInTheirUnit : Prop :=
  ∀ (s t : State) (rest : List Turn), step s = .next t →
    (s.sched = .rxl :: rest → SameCk s.blk t.blk ∧ SameEnc s.blk t.blk ∧ t.txLog = s.txLog ∧ t.cmdLog = s.cmdLog ∧
      t.rstN = s.rstN ∧ t.params = s.params) ∧
    (s.sched = .txl :: rest → SameCk s.blk t.blk ∧ SameDec s.blk t.blk ∧ t.rxq = s.rxq ∧ t.rxLog = s.rxLog ∧
      t.cmdLog = s.cmdLog ∧ t.rstN = s.rstN ∧ t.params = s.params ∧
      t.blk = { s.blk with encPhase := t.blk.encPhase, encIdx := t.blk.encIdx })

/-- R20, R24: RXL and TXL are independent: the two orders of an RXL turn and a TXL turn reach the same state. -/
def Obligations.RxlAndTxlCommute : Prop :=
  ∀ s : State, Inv s → playTurns [.rxl, .txl] s = playTurns [.txl, .rxl] s

/-- R22, R23, R43 with R240: `rx_ready`, `tx_valid` and `irq_frame` are 1 exactly when the phase and the reset input say
so, and `cmd_ready` is 1 exactly outside reset (time left out: log 15). While `tx_valid` is 1 the port shows a byte, and
it is the byte that a TXL step hands over next; with no byte on the port a TXL step hands over none. -/
def Obligations.OutputLevelsFollowPhases : Prop :=
  (∀ s : State,
    (irqFrame s = true ↔ s.rstN = true ∧ s.blk.decPhase = .hold) ∧
    (rxReady s = true ↔ s.rstN = true ∧ s.blk.decPhase ≠ .hold) ∧
    (txValid s = true ↔ s.rstN = true ∧ s.blk.encPhase ≠ .idle) ∧
    (cmdReady s = true ↔ s.rstN = true)) ∧
  (∀ s : State, Inv s → (txValid s = true ↔ ∃ b, txPort s = some b)) ∧
  ∀ (s t : State) (rest : List Turn), s.sched = .txl :: rest → step s = .next t →
    (∀ b, txPort s = some b → t.txLog = s.txLog ++ [b]) ∧ (txPort s = none → t.txLog = s.txLog)
end

