-- ==== Sys2Proof/Laws/Fletcher.lean ====
section
/-! SUPPORT. The small lemmas of the checksum step and of the packing of two bytes. -/

namespace Sys2Proof.Machine

/-- `wrap255` of a number below 510 stays below 255 (R102: one subtraction suffices). -/
theorem wrap255_le (t : Nat) (h : t < 510) : wrap255 t ≤ 254 := by
  unfold wrap255; split <;> omega

/-- `wrap255` of a number below 510 is the remainder modulo 255. -/
theorem wrap255_eq_mod (t : Nat) (h : t < 510) : wrap255 t = t % 255 := by
  unfold wrap255; split <;> omega

/-- The first accumulator after a byte, as a number. -/
theorem flStep_fst_toNat (s : Byte × Byte) (d : Byte) :
    (flStep s d).1.toNat = wrap255 (s.1.toNat + d.toNat) := by
  have := s.1.isLt; have := d.isLt
  simp only [flStep, BitVec.toNat_ofNat]
  apply Nat.mod_eq_of_lt
  unfold wrap255; split <;> omega

/-- The second accumulator after a byte, as a number: it takes the updated first one. -/
theorem flStep_snd_toNat (s : Byte × Byte) (d : Byte) :
    (flStep s d).2.toNat = wrap255 (s.2.toNat + wrap255 (s.1.toNat + d.toNat)) := by
  have := s.1.isLt; have := s.2.isLt; have := d.isLt
  simp only [flStep, BitVec.toNat_ofNat]
  apply Nat.mod_eq_of_lt
  unfold wrap255; split <;> split <;> omega

@[simp] theorem flFold_nil (s : Byte × Byte) : flFold s [] = s := rfl

@[simp] theorem flFold_cons (s : Byte × Byte) (b : Byte) (bs : List Byte) :
    flFold s (b :: bs) = flFold (flStep s b) bs := rfl

theorem flFold_append (s : Byte × Byte) (as bs : List Byte) :
    flFold s (as ++ bs) = flFold (flFold s as) bs := List.foldl_append

/-- The bits of two packed bytes. -/
theorem getLsbD_pack (hi lo : Byte) (i : Nat) :
    (pack hi lo).getLsbD i = if i < 8 then lo.getLsbD i else hi.getLsbD (i - 8) := by
  refine (BitVec.getLsbD_append (x := hi) (y := lo) (i := i)).trans ?_
  split <;> simp_all

@[simp] theorem hiByte_pack (hi lo : Byte) : hiByte (pack hi lo) = hi := by
  apply BitVec.eq_of_getLsbD_eq
  intro i hi'
  simp [hiByte, getLsbD_pack, hi']

@[simp] theorem loByte_pack (hi lo : Byte) : loByte (pack hi lo) = lo := by
  apply BitVec.eq_of_getLsbD_eq
  intro i hi'
  simp [loByte, getLsbD_pack, hi']

@[simp] theorem opField_pack (hi lo : Byte) : opField (pack hi lo) = hi := hiByte_pack hi lo

@[simp] theorem immField_pack (hi lo : Byte) : immField (pack hi lo) = lo := loByte_pack hi lo

/-- A word is its two bytes. -/
@[simp] theorem pack_hiByte_loByte (w : Word) : pack (hiByte w) (loByte w) = w := by
  simp only [pack, hiByte, loByte]
  apply BitVec.eq_of_getLsbD_eq
  intro i hi
  simp only [BitVec.getLsbD_append, BitVec.getLsbD_extractLsb']
  split
  · simp_all
  · have : i - 8 < 8 := by omega
    simp only [this, decide_true, Bool.true_and]
    congr 1; omega

end Sys2Proof.Machine
end

