-- ==== Sys2Proof/Laws/State.lean ====
section
/-! SUPPORT. One lemma per field per named update of State and Block, true by unfolding, so that no later proof unfolds a
record update. -/

namespace Sys2Proof.Machine

/-! ### Other registers and buffers -/

@[simp] theorem State.withBlk_params (s : State) (b : Block) : (s.withBlk b).params = s.params := rfl
@[simp] theorem State.withBlk_blk (s : State) (b : Block) : (s.withBlk b).blk = b := rfl
@[simp] theorem State.withBlk_rsp (s : State) (b : Block) : (s.withBlk b).rsp = s.rsp := rfl
@[simp] theorem State.withBlk_rstN (s : State) (b : Block) : (s.withBlk b).rstN = s.rstN := rfl
@[simp] theorem State.withBlk_sched (s : State) (b : Block) : (s.withBlk b).sched = s.sched := rfl
@[simp] theorem State.withBlk_rxq (s : State) (b : Block) : (s.withBlk b).rxq = s.rxq := rfl
@[simp] theorem State.withBlk_cmdLog (s : State) (b : Block) : (s.withBlk b).cmdLog = s.cmdLog := rfl
@[simp] theorem State.withBlk_rxLog (s : State) (b : Block) : (s.withBlk b).rxLog = s.rxLog := rfl
@[simp] theorem State.withBlk_txLog (s : State) (b : Block) : (s.withBlk b).txLog = s.txLog := rfl
@[simp] theorem State.withBlk_freeIdx (s : State) (b : Block) : (s.withBlk b).freeIdx = s.freeIdx := rfl

/-! ### A response -/

@[simp] theorem respond_params (v : Word) (s : State) : (respond v s).params = s.params := rfl
@[simp] theorem respond_blk (v : Word) (s : State) : (respond v s).blk = s.blk := rfl
@[simp] theorem respond_rsp (v : Word) (s : State) : (respond v s).rsp = some ⟨.ok, v⟩ := rfl
@[simp] theorem respond_rstN (v : Word) (s : State) : (respond v s).rstN = s.rstN := rfl
@[simp] theorem respond_sched (v : Word) (s : State) : (respond v s).sched = s.sched := rfl
@[simp] theorem respond_rxq (v : Word) (s : State) : (respond v s).rxq = s.rxq := rfl
@[simp] theorem respond_cmdLog (v : Word) (s : State) : (respond v s).cmdLog = s.cmdLog := rfl
@[simp] theorem respond_rxLog (v : Word) (s : State) : (respond v s).rxLog = s.rxLog := rfl
@[simp] theorem respond_txLog (v : Word) (s : State) : (respond v s).txLog = s.txLog := rfl
@[simp] theorem respond_freeIdx (v : Word) (s : State) : (respond v s).freeIdx = s.freeIdx := rfl

/-! ### An error -/

@[simp] theorem raiseErr_params (e : ErrCode) (s : State) : (raiseErr e s).params = s.params := rfl
@[simp] theorem raiseErr_blk (e : ErrCode) (s : State) : (raiseErr e s).blk = s.blk := rfl
@[simp] theorem raiseErr_rsp (e : ErrCode) (s : State) : (raiseErr e s).rsp = some ⟨e, 0x0000#16⟩ := rfl
@[simp] theorem raiseErr_rstN (e : ErrCode) (s : State) : (raiseErr e s).rstN = s.rstN := rfl
@[simp] theorem raiseErr_sched (e : ErrCode) (s : State) : (raiseErr e s).sched = s.sched := rfl
@[simp] theorem raiseErr_rxq (e : ErrCode) (s : State) : (raiseErr e s).rxq = s.rxq := rfl
@[simp] theorem raiseErr_cmdLog (e : ErrCode) (s : State) : (raiseErr e s).cmdLog = s.cmdLog := rfl
@[simp] theorem raiseErr_rxLog (e : ErrCode) (s : State) : (raiseErr e s).rxLog = s.rxLog := rfl
@[simp] theorem raiseErr_txLog (e : ErrCode) (s : State) : (raiseErr e s).txLog = s.txLog := rfl
@[simp] theorem raiseErr_freeIdx (e : ErrCode) (s : State) : (raiseErr e s).freeIdx = s.freeIdx := rfl

/-! ### A byte to TXL -/

@[simp] theorem emit_params (b : Byte) (s : State) : (emit b s).params = s.params := rfl
@[simp] theorem emit_blk (b : Byte) (s : State) : (emit b s).blk = s.blk := rfl
@[simp] theorem emit_rsp (b : Byte) (s : State) : (emit b s).rsp = s.rsp := rfl
@[simp] theorem emit_rstN (b : Byte) (s : State) : (emit b s).rstN = s.rstN := rfl
@[simp] theorem emit_sched (b : Byte) (s : State) : (emit b s).sched = s.sched := rfl
@[simp] theorem emit_rxq (b : Byte) (s : State) : (emit b s).rxq = s.rxq := rfl
@[simp] theorem emit_cmdLog (b : Byte) (s : State) : (emit b s).cmdLog = s.cmdLog := rfl
@[simp] theorem emit_rxLog (b : Byte) (s : State) : (emit b s).rxLog = s.rxLog := rfl
@[simp] theorem emit_txLog (b : Byte) (s : State) : (emit b s).txLog = s.txLog ++ [b] := rfl
@[simp] theorem emit_freeIdx (b : Byte) (s : State) : (emit b s).freeIdx = s.freeIdx := rfl

/-! ### A byte from RXL -/

@[simp] theorem acceptByte_params (w : Byte) (rest : List Byte) (s : State) : (acceptByte w rest s).params = s.params := rfl
@[simp] theorem acceptByte_blk (w : Byte) (rest : List Byte) (s : State) : (acceptByte w rest s).blk = s.blk := rfl
@[simp] theorem acceptByte_rsp (w : Byte) (rest : List Byte) (s : State) : (acceptByte w rest s).rsp = s.rsp := rfl
@[simp] theorem acceptByte_rstN (w : Byte) (rest : List Byte) (s : State) : (acceptByte w rest s).rstN = s.rstN := rfl
@[simp] theorem acceptByte_sched (w : Byte) (rest : List Byte) (s : State) : (acceptByte w rest s).sched = s.sched := rfl
@[simp] theorem acceptByte_rxq (w : Byte) (rest : List Byte) (s : State) : (acceptByte w rest s).rxq = rest := rfl
@[simp] theorem acceptByte_cmdLog (w : Byte) (rest : List Byte) (s : State) : (acceptByte w rest s).cmdLog = s.cmdLog := rfl
@[simp] theorem acceptByte_rxLog (w : Byte) (rest : List Byte) (s : State) : (acceptByte w rest s).rxLog = s.rxLog ++ [w] := rfl
@[simp] theorem acceptByte_txLog (w : Byte) (rest : List Byte) (s : State) : (acceptByte w rest s).txLog = s.txLog := rfl
@[simp] theorem acceptByte_freeIdx (w : Byte) (rest : List Byte) (s : State) : (acceptByte w rest s).freeIdx = s.freeIdx := rfl

/-! ### A hard reset -/

@[simp] theorem hardReset_params (s : State) : (hardReset s).params = s.params := rfl
@[simp] theorem hardReset_blk (s : State) : (hardReset s).blk = Block.reset := rfl
@[simp] theorem hardReset_rsp (s : State) : (hardReset s).rsp = s.rsp := rfl
@[simp] theorem hardReset_rstN (s : State) : (hardReset s).rstN = false := rfl
@[simp] theorem hardReset_sched (s : State) : (hardReset s).sched = s.sched := rfl
@[simp] theorem hardReset_rxq (s : State) : (hardReset s).rxq = s.rxq := rfl
@[simp] theorem hardReset_cmdLog (s : State) : (hardReset s).cmdLog = s.cmdLog := rfl
@[simp] theorem hardReset_rxLog (s : State) : (hardReset s).rxLog = s.rxLog := rfl
@[simp] theorem hardReset_txLog (s : State) : (hardReset s).txLog = s.txLog := rfl
@[simp] theorem hardReset_freeIdx (s : State) : (hardReset s).freeIdx = s.freeIdx := rfl

/-! ### The start of a step -/

@[simp] theorem beginStep_params (rest : List Turn) (s : State) : (beginStep rest s).params = s.params := rfl
@[simp] theorem beginStep_blk (rest : List Turn) (s : State) : (beginStep rest s).blk = s.blk := rfl
@[simp] theorem beginStep_rsp (rest : List Turn) (s : State) : (beginStep rest s).rsp = none := rfl
@[simp] theorem beginStep_rstN (rest : List Turn) (s : State) : (beginStep rest s).rstN = s.rstN := rfl
@[simp] theorem beginStep_sched (rest : List Turn) (s : State) : (beginStep rest s).sched = rest := rfl
@[simp] theorem beginStep_rxq (rest : List Turn) (s : State) : (beginStep rest s).rxq = s.rxq := rfl
@[simp] theorem beginStep_cmdLog (rest : List Turn) (s : State) : (beginStep rest s).cmdLog = s.cmdLog := rfl
@[simp] theorem beginStep_rxLog (rest : List Turn) (s : State) : (beginStep rest s).rxLog = s.rxLog := rfl
@[simp] theorem beginStep_txLog (rest : List Turn) (s : State) : (beginStep rest s).txLog = s.txLog := rfl
@[simp] theorem beginStep_freeIdx (rest : List Turn) (s : State) : (beginStep rest s).freeIdx = s.freeIdx := rfl

/-! ### A word presented by HOST -/

@[simp] theorem presentWord_params (w : Word) (s : State) : (presentWord w s).params = s.params := rfl
@[simp] theorem presentWord_blk (w : Word) (s : State) : (presentWord w s).blk = s.blk := rfl
@[simp] theorem presentWord_rsp (w : Word) (s : State) : (presentWord w s).rsp = s.rsp := rfl
@[simp] theorem presentWord_rstN (w : Word) (s : State) : (presentWord w s).rstN = true := rfl
@[simp] theorem presentWord_sched (w : Word) (s : State) : (presentWord w s).sched = .cmd w :: s.sched := rfl
@[simp] theorem presentWord_rxq (w : Word) (s : State) : (presentWord w s).rxq = s.rxq := rfl
@[simp] theorem presentWord_cmdLog (w : Word) (s : State) : (presentWord w s).cmdLog = s.cmdLog := rfl
@[simp] theorem presentWord_rxLog (w : Word) (s : State) : (presentWord w s).rxLog = s.rxLog := rfl
@[simp] theorem presentWord_txLog (w : Word) (s : State) : (presentWord w s).txLog = s.txLog := rfl
@[simp] theorem presentWord_freeIdx (w : Word) (s : State) : (presentWord w s).freeIdx = s.freeIdx := rfl

/-! ### Other standalone accumulators -/

@[simp] theorem Block.withCk_ckS1 (b : Block) (s : Byte × Byte) : (b.withCk s).ckS1 = s.1 := rfl
@[simp] theorem Block.withCk_ckS2 (b : Block) (s : Byte × Byte) : (b.withCk s).ckS2 = s.2 := rfl
@[simp] theorem Block.withCk_txlen (b : Block) (s : Byte × Byte) : (b.withCk s).txlen = b.txlen := rfl
@[simp] theorem Block.withCk_encIdx (b : Block) (s : Byte × Byte) : (b.withCk s).encIdx = b.encIdx := rfl
@[simp] theorem Block.withCk_encCk (b : Block) (s : Byte × Byte) : (b.withCk s).encCk = b.encCk := rfl
@[simp] theorem Block.withCk_encPhase (b : Block) (s : Byte × Byte) : (b.withCk s).encPhase = b.encPhase := rfl
@[simp] theorem Block.withCk_decPhase (b : Block) (s : Byte × Byte) : (b.withCk s).decPhase = b.decPhase := rfl
@[simp] theorem Block.withCk_decResult (b : Block) (s : Byte × Byte) : (b.withCk s).decResult = b.decResult := rfl
@[simp] theorem Block.withCk_decLen (b : Block) (s : Byte × Byte) : (b.withCk s).decLen = b.decLen := rfl
@[simp] theorem Block.withCk_decIdx (b : Block) (s : Byte × Byte) : (b.withCk s).decIdx = b.decIdx := rfl
@[simp] theorem Block.withCk_decS1 (b : Block) (s : Byte × Byte) : (b.withCk s).decS1 = b.decS1 := rfl
@[simp] theorem Block.withCk_decS2 (b : Block) (s : Byte × Byte) : (b.withCk s).decS2 = b.decS2 := rfl
@[simp] theorem Block.withCk_zlen (b : Block) (s : Byte × Byte) : (b.withCk s).zlen = b.zlen := rfl
@[simp] theorem Block.withCk_rx (b : Block) (s : Byte × Byte) : (b.withCk s).rx = b.rx := rfl
@[simp] theorem Block.withCk_tx (b : Block) (s : Byte × Byte) : (b.withCk s).tx = b.tx := rfl

/-! ### SRST -/

@[simp] theorem Block.softReset_ckS1 (b : Block) : (b.softReset).ckS1 = 0x00#8 := rfl
@[simp] theorem Block.softReset_ckS2 (b : Block) : (b.softReset).ckS2 = 0x00#8 := rfl
@[simp] theorem Block.softReset_txlen (b : Block) : (b.softReset).txlen = 0x00#8 := rfl
@[simp] theorem Block.softReset_encIdx (b : Block) : (b.softReset).encIdx = 0x00#8 := rfl
@[simp] theorem Block.softReset_encCk (b : Block) : (b.softReset).encCk = 0x0000#16 := rfl
@[simp] theorem Block.softReset_encPhase (b : Block) : (b.softReset).encPhase = .idle := rfl
@[simp] theorem Block.softReset_decPhase (b : Block) : (b.softReset).decPhase = .hunt := rfl
@[simp] theorem Block.softReset_decResult (b : Block) : (b.softReset).decResult = .none := rfl
@[simp] theorem Block.softReset_decLen (b : Block) : (b.softReset).decLen = 0x00#8 := rfl
@[simp] theorem Block.softReset_decIdx (b : Block) : (b.softReset).decIdx = 0x00#8 := rfl
@[simp] theorem Block.softReset_decS1 (b : Block) : (b.softReset).decS1 = 0x00#8 := rfl
@[simp] theorem Block.softReset_decS2 (b : Block) : (b.softReset).decS2 = 0x00#8 := rfl
@[simp] theorem Block.softReset_zlen (b : Block) : (b.softReset).zlen = false := rfl
@[simp] theorem Block.softReset_rx (b : Block) : (b.softReset).rx = b.rx := rfl
@[simp] theorem Block.softReset_tx (b : Block) : (b.softReset).tx = b.tx := rfl

/-! ### Back to HUNT -/

@[simp] theorem Block.toHunt_ckS1 (b : Block) : (b.toHunt).ckS1 = b.ckS1 := rfl
@[simp] theorem Block.toHunt_ckS2 (b : Block) : (b.toHunt).ckS2 = b.ckS2 := rfl
@[simp] theorem Block.toHunt_txlen (b : Block) : (b.toHunt).txlen = b.txlen := rfl
@[simp] theorem Block.toHunt_encIdx (b : Block) : (b.toHunt).encIdx = b.encIdx := rfl
@[simp] theorem Block.toHunt_encCk (b : Block) : (b.toHunt).encCk = b.encCk := rfl
@[simp] theorem Block.toHunt_encPhase (b : Block) : (b.toHunt).encPhase = b.encPhase := rfl
@[simp] theorem Block.toHunt_decPhase (b : Block) : (b.toHunt).decPhase = .hunt := rfl
@[simp] theorem Block.toHunt_decResult (b : Block) : (b.toHunt).decResult = .none := rfl
@[simp] theorem Block.toHunt_decLen (b : Block) : (b.toHunt).decLen = b.decLen := rfl
@[simp] theorem Block.toHunt_decIdx (b : Block) : (b.toHunt).decIdx = b.decIdx := rfl
@[simp] theorem Block.toHunt_decS1 (b : Block) : (b.toHunt).decS1 = b.decS1 := rfl
@[simp] theorem Block.toHunt_decS2 (b : Block) : (b.toHunt).decS2 = b.decS2 := rfl
@[simp] theorem Block.toHunt_zlen (b : Block) : (b.toHunt).zlen = b.zlen := rfl
@[simp] theorem Block.toHunt_rx (b : Block) : (b.toHunt).rx = b.rx := rfl
@[simp] theorem Block.toHunt_tx (b : Block) : (b.toHunt).tx = b.tx := rfl

/-! ### A payload byte sent -/

@[simp] theorem Block.afterPayloadByte_ckS1 (b : Block) : (b.afterPayloadByte).ckS1 = b.ckS1 := rfl
@[simp] theorem Block.afterPayloadByte_ckS2 (b : Block) : (b.afterPayloadByte).ckS2 = b.ckS2 := rfl
@[simp] theorem Block.afterPayloadByte_txlen (b : Block) : (b.afterPayloadByte).txlen = b.txlen := rfl
@[simp] theorem Block.afterPayloadByte_encIdx (b : Block) : (b.afterPayloadByte).encIdx = b.encIdx + 1#8 := rfl
@[simp] theorem Block.afterPayloadByte_encCk (b : Block) : (b.afterPayloadByte).encCk = b.encCk := rfl
@[simp] theorem Block.afterPayloadByte_encPhase (b : Block) : (b.afterPayloadByte).encPhase = if b.encIdx.toNat + 1 = b.txlen.toNat then .ck1 else .data := rfl
@[simp] theorem Block.afterPayloadByte_decPhase (b : Block) : (b.afterPayloadByte).decPhase = b.decPhase := rfl
@[simp] theorem Block.afterPayloadByte_decResult (b : Block) : (b.afterPayloadByte).decResult = b.decResult := rfl
@[simp] theorem Block.afterPayloadByte_decLen (b : Block) : (b.afterPayloadByte).decLen = b.decLen := rfl
@[simp] theorem Block.afterPayloadByte_decIdx (b : Block) : (b.afterPayloadByte).decIdx = b.decIdx := rfl
@[simp] theorem Block.afterPayloadByte_decS1 (b : Block) : (b.afterPayloadByte).decS1 = b.decS1 := rfl
@[simp] theorem Block.afterPayloadByte_decS2 (b : Block) : (b.afterPayloadByte).decS2 = b.decS2 := rfl
@[simp] theorem Block.afterPayloadByte_zlen (b : Block) : (b.afterPayloadByte).zlen = b.zlen := rfl
@[simp] theorem Block.afterPayloadByte_rx (b : Block) : (b.afterPayloadByte).rx = b.rx := rfl
@[simp] theorem Block.afterPayloadByte_tx (b : Block) : (b.afterPayloadByte).tx = b.tx := rfl

/-! ### The length byte sent -/

@[simp] theorem Block.afterLenByte_ckS1 (b : Block) : (b.afterLenByte).ckS1 = b.ckS1 := rfl
@[simp] theorem Block.afterLenByte_ckS2 (b : Block) : (b.afterLenByte).ckS2 = b.ckS2 := rfl
@[simp] theorem Block.afterLenByte_txlen (b : Block) : (b.afterLenByte).txlen = b.txlen := rfl
@[simp] theorem Block.afterLenByte_encIdx (b : Block) : (b.afterLenByte).encIdx = 0x00#8 := rfl
@[simp] theorem Block.afterLenByte_encCk (b : Block) : (b.afterLenByte).encCk = b.encCk := rfl
@[simp] theorem Block.afterLenByte_encPhase (b : Block) : (b.afterLenByte).encPhase = if b.txlen = 0x00#8 then .ck1 else .data := rfl
@[simp] theorem Block.afterLenByte_decPhase (b : Block) : (b.afterLenByte).decPhase = b.decPhase := rfl
@[simp] theorem Block.afterLenByte_decResult (b : Block) : (b.afterLenByte).decResult = b.decResult := rfl
@[simp] theorem Block.afterLenByte_decLen (b : Block) : (b.afterLenByte).decLen = b.decLen := rfl
@[simp] theorem Block.afterLenByte_decIdx (b : Block) : (b.afterLenByte).decIdx = b.decIdx := rfl
@[simp] theorem Block.afterLenByte_decS1 (b : Block) : (b.afterLenByte).decS1 = b.decS1 := rfl
@[simp] theorem Block.afterLenByte_decS2 (b : Block) : (b.afterLenByte).decS2 = b.decS2 := rfl
@[simp] theorem Block.afterLenByte_zlen (b : Block) : (b.afterLenByte).zlen = b.zlen := rfl
@[simp] theorem Block.afterLenByte_rx (b : Block) : (b.afterLenByte).rx = b.rx := rfl
@[simp] theorem Block.afterLenByte_tx (b : Block) : (b.afterLenByte).tx = b.tx := rfl

/-! ### A length byte received -/

@[simp] theorem Block.startFrame_ckS1 (b : Block) (w : Byte) : (b.startFrame w).ckS1 = b.ckS1 := rfl
@[simp] theorem Block.startFrame_ckS2 (b : Block) (w : Byte) : (b.startFrame w).ckS2 = b.ckS2 := rfl
@[simp] theorem Block.startFrame_txlen (b : Block) (w : Byte) : (b.startFrame w).txlen = b.txlen := rfl
@[simp] theorem Block.startFrame_encIdx (b : Block) (w : Byte) : (b.startFrame w).encIdx = b.encIdx := rfl
@[simp] theorem Block.startFrame_encCk (b : Block) (w : Byte) : (b.startFrame w).encCk = b.encCk := rfl
@[simp] theorem Block.startFrame_encPhase (b : Block) (w : Byte) : (b.startFrame w).encPhase = b.encPhase := rfl
@[simp] theorem Block.startFrame_decPhase (b : Block) (w : Byte) : (b.startFrame w).decPhase = b.decPhase := rfl
@[simp] theorem Block.startFrame_decResult (b : Block) (w : Byte) : (b.startFrame w).decResult = b.decResult := rfl
@[simp] theorem Block.startFrame_decLen (b : Block) (w : Byte) : (b.startFrame w).decLen = w := rfl
@[simp] theorem Block.startFrame_decIdx (b : Block) (w : Byte) : (b.startFrame w).decIdx = 0x00#8 := rfl
@[simp] theorem Block.startFrame_decS1 (b : Block) (w : Byte) : (b.startFrame w).decS1 = (flStep (0x00#8, 0x00#8) w).1 := rfl
@[simp] theorem Block.startFrame_decS2 (b : Block) (w : Byte) : (b.startFrame w).decS2 = (flStep (0x00#8, 0x00#8) w).2 := rfl
@[simp] theorem Block.startFrame_zlen (b : Block) (w : Byte) : (b.startFrame w).zlen = b.zlen := rfl
@[simp] theorem Block.startFrame_rx (b : Block) (w : Byte) : (b.startFrame w).rx = b.rx := rfl
@[simp] theorem Block.startFrame_tx (b : Block) (w : Byte) : (b.startFrame w).tx = b.tx := rfl

/-! ### A payload byte received -/

@[simp] theorem Block.countPayload_ckS1 (b : Block) (v : Byte) : (b.countPayload v).ckS1 = b.ckS1 := rfl
@[simp] theorem Block.countPayload_ckS2 (b : Block) (v : Byte) : (b.countPayload v).ckS2 = b.ckS2 := rfl
@[simp] theorem Block.countPayload_txlen (b : Block) (v : Byte) : (b.countPayload v).txlen = b.txlen := rfl
@[simp] theorem Block.countPayload_encIdx (b : Block) (v : Byte) : (b.countPayload v).encIdx = b.encIdx := rfl
@[simp] theorem Block.countPayload_encCk (b : Block) (v : Byte) : (b.countPayload v).encCk = b.encCk := rfl
@[simp] theorem Block.countPayload_encPhase (b : Block) (v : Byte) : (b.countPayload v).encPhase = b.encPhase := rfl
@[simp] theorem Block.countPayload_decPhase (b : Block) (v : Byte) : (b.countPayload v).decPhase = if b.decIdx.toNat + 1 = b.decLen.toNat then .ck1 else .data := rfl
@[simp] theorem Block.countPayload_decResult (b : Block) (v : Byte) : (b.countPayload v).decResult = b.decResult := rfl
@[simp] theorem Block.countPayload_decLen (b : Block) (v : Byte) : (b.countPayload v).decLen = b.decLen := rfl
@[simp] theorem Block.countPayload_decIdx (b : Block) (v : Byte) : (b.countPayload v).decIdx = b.decIdx + 1#8 := rfl
@[simp] theorem Block.countPayload_decS1 (b : Block) (v : Byte) : (b.countPayload v).decS1 = (flStep b.decSums v).1 := rfl
@[simp] theorem Block.countPayload_decS2 (b : Block) (v : Byte) : (b.countPayload v).decS2 = (flStep b.decSums v).2 := rfl
@[simp] theorem Block.countPayload_zlen (b : Block) (v : Byte) : (b.countPayload v).zlen = b.zlen := rfl
@[simp] theorem Block.countPayload_rx (b : Block) (v : Byte) : (b.countPayload v).rx = b.rx := rfl
@[simp] theorem Block.countPayload_tx (b : Block) (v : Byte) : (b.countPayload v).tx = b.tx := rfl

/-! ### The judgement of a length byte -/

@[simp] theorem Block.judgeLength_ckS1 (P : Params) (w : Byte) (b : Block) : (Block.judgeLength P w b).ckS1 = b.ckS1 := by
  unfold Block.judgeLength; split <;> [rfl; (split <;> rfl)]
@[simp] theorem Block.judgeLength_ckS2 (P : Params) (w : Byte) (b : Block) : (Block.judgeLength P w b).ckS2 = b.ckS2 := by
  unfold Block.judgeLength; split <;> [rfl; (split <;> rfl)]
@[simp] theorem Block.judgeLength_txlen (P : Params) (w : Byte) (b : Block) : (Block.judgeLength P w b).txlen = b.txlen := by
  unfold Block.judgeLength; split <;> [rfl; (split <;> rfl)]
@[simp] theorem Block.judgeLength_encIdx (P : Params) (w : Byte) (b : Block) : (Block.judgeLength P w b).encIdx = b.encIdx := by
  unfold Block.judgeLength; split <;> [rfl; (split <;> rfl)]
@[simp] theorem Block.judgeLength_encCk (P : Params) (w : Byte) (b : Block) : (Block.judgeLength P w b).encCk = b.encCk := by
  unfold Block.judgeLength; split <;> [rfl; (split <;> rfl)]
@[simp] theorem Block.judgeLength_encPhase (P : Params) (w : Byte) (b : Block) : (Block.judgeLength P w b).encPhase = b.encPhase := by
  unfold Block.judgeLength; split <;> [rfl; (split <;> rfl)]
@[simp] theorem Block.judgeLength_decLen (P : Params) (w : Byte) (b : Block) : (Block.judgeLength P w b).decLen = b.decLen := by
  unfold Block.judgeLength; split <;> [rfl; (split <;> rfl)]
@[simp] theorem Block.judgeLength_decIdx (P : Params) (w : Byte) (b : Block) : (Block.judgeLength P w b).decIdx = b.decIdx := by
  unfold Block.judgeLength; split <;> [rfl; (split <;> rfl)]
@[simp] theorem Block.judgeLength_decS1 (P : Params) (w : Byte) (b : Block) : (Block.judgeLength P w b).decS1 = b.decS1 := by
  unfold Block.judgeLength; split <;> [rfl; (split <;> rfl)]
@[simp] theorem Block.judgeLength_decS2 (P : Params) (w : Byte) (b : Block) : (Block.judgeLength P w b).decS2 = b.decS2 := by
  unfold Block.judgeLength; split <;> [rfl; (split <;> rfl)]
@[simp] theorem Block.judgeLength_rx (P : Params) (w : Byte) (b : Block) : (Block.judgeLength P w b).rx = b.rx := by
  unfold Block.judgeLength; split <;> [rfl; (split <;> rfl)]
@[simp] theorem Block.judgeLength_tx (P : Params) (w : Byte) (b : Block) : (Block.judgeLength P w b).tx = b.tx := by
  unfold Block.judgeLength; split <;> [rfl; (split <;> rfl)]

end Sys2Proof.Machine
end

