-- ==== Sys2Proof/Laws/Ops.lean ====
section
/-! SUPPORT. For each shared operation, what it can do, said once: later proofs cite these and unfold nothing. -/

namespace Sys2Proof.Machine

@[simp] theorem onOk_ok {α β : Type} (a : α) (k : α → Result β) : onOk (.ok a) k = k a := rfl

@[simp] theorem onOk_error {α β : Type} (f : Fault) (k : α → Result β) : onOk (.error f) k = .error f := rfl

/-- A chain that succeeds succeeded in each part. -/
theorem onOk_eq_ok {α β : Type} {r : Result α} {k : α → Result β} {b : β} (h : onOk r k = .ok b) :
    ∃ a, r = .ok a ∧ k a = .ok b := by
  cases r with
  | ok a => exact ⟨a, rfl, h⟩
  | error f => cases h

@[simp] theorem settle_ok (s : State) : settle (.ok s) = .next s := rfl

@[simp] theorem settle_error (f : Fault) : settle (.error f) = .fault f := rfl

/-- A settled result that goes on succeeded. -/
theorem settle_eq_next {r : Result State} {t : State} (h : settle r = .next t) : r = .ok t := by
  cases r with
  | ok s => cases h; rfl
  | error f => cases h

/-- Reading a cell: the written byte, with nothing else changed; or, where none was written, the next free value. -/
theorem readCell_cases (m : Memory) (i : Nat) (s : State) :
    (∃ v, Memory.read? m i = some v ∧ readCell m i s = (v, s)) ∨
    (Memory.read? m i = none ∧
      readCell m i s = (Config.unwrittenByte s.freeIdx, { s with freeIdx := s.freeIdx + 1 })) := by
  unfold readCell
  cases h : Memory.read? m i with
  | some v => exact .inl ⟨v, rfl, rfl⟩
  | none => exact .inr ⟨rfl, rfl⟩

theorem readCell_of_some {m : Memory} {i : Nat} {v : Byte} (s : State) (h : Memory.read? m i = some v) :
    readCell m i s = (v, s) := by simp [readCell, h]

/-- Whatever it reads, reading a cell changes nothing but the count of free values. -/
theorem readCell_frame (m : Memory) (i : Nat) (s : State) :
    (readCell m i s).2 = { s with freeIdx := (readCell m i s).2.freeIdx } := by
  unfold readCell; split <;> rfl

@[simp] theorem readCell_params (m : Memory) (i : Nat) (s : State) : (readCell m i s).2.params = s.params := by
  rw [readCell_frame]

/-- A successful read of RX is below the capacity and reads the cell. -/
theorem readRx_eq_ok {i : Nat} {s : State} {r : Byte × State} :
    readRx i s = .ok r ↔ i < s.params.cap ∧ readCell s.blk.rx i s = r := by
  unfold readRx; split <;> simp_all

/-- A successful read of TX is below the capacity and reads the cell. -/
theorem readTx_eq_ok {i : Nat} {s : State} {r : Byte × State} :
    readTx i s = .ok r ↔ i < s.params.txcap ∧ readCell s.blk.tx i s = r := by
  unfold readTx; split <;> simp_all

/-- A successful write of RX is below the capacity and writes the buffer, nothing else. -/
theorem writeRx_eq_ok {i : Nat} {v : Byte} {s t : State} :
    writeRx i v s = .ok t ↔
      i < s.params.cap ∧ s.withBlk { s.blk with rx := Memory.write s.blk.rx i v } = t := by
  unfold writeRx; split <;> simp_all

/-- A successful write of TX is below the capacity and writes the buffer, nothing else. -/
theorem writeTx_eq_ok {i : Nat} {v : Byte} {s t : State} :
    writeTx i v s = .ok t ↔
      i < s.params.txcap ∧ s.withBlk { s.blk with tx := Memory.write s.blk.tx i v } = t := by
  unfold writeTx; split <;> simp_all

/-- Reading a written span of TX gives its bytes and changes nothing. -/
theorem readTxSpan_of_written (p : List Byte) (i : Nat) (s : State) (hcap : i + p.length ≤ s.params.txcap)
    (h : ∀ j, j < p.length → Memory.read? s.blk.tx (i + j) = p[j]?) :
    readTxSpan p.length i s = .ok (p, s) := by
  induction p generalizing i with
  | nil => rfl
  | cons b p ih =>
    have h0 : Memory.read? s.blk.tx i = some b := by simpa using h 0 (by simp)
    have hlt : i < s.params.txcap := by simp at hcap; omega
    have hrest : readTxSpan p.length (i + 1) s = .ok (p, s) := by
      refine ih (i + 1) (by simp at hcap; omega) fun j hj => ?_
      have := h (j + 1) (by simpa using hj)
      simpa [Nat.add_assoc, Nat.add_comm 1 j] using this
    simp [readTxSpan, readTx, hlt, readCell_of_some s h0, hrest]

/-- Reading any span of TX below the capacity succeeds and changes nothing but the count of free values. -/
theorem readTxSpan_total (n i : Nat) (s : State) (hcap : i + n ≤ s.params.txcap) :
    ∃ bs k, bs.length = n ∧ readTxSpan n i s = .ok (bs, { s with freeIdx := k }) := by
  induction n generalizing i s with
  | zero => exact ⟨[], s.freeIdx, rfl, rfl⟩
  | succ n ih =>
    have hlt : i < s.params.txcap := by omega
    obtain ⟨bs, k, hl, hk⟩ := ih (i + 1) (readCell s.blk.tx i s).2 (by rw [readCell_params]; omega)
    refine ⟨(readCell s.blk.tx i s).1 :: bs, k, by simp [hl], ?_⟩
    rw [readTxSpan, readTx, if_pos hlt]
    simp only [onOk_ok]
    rw [hk]
    rw [readCell_frame]
    rfl

@[simp] theorem mapNext_next (f : State → State) (s : State) : mapNext f (.next s) = .next (f s) := rfl

@[simp] theorem andThen_next (s : State) (k : State → Host.Outcome State Fault Refusal) :
    andThen (.next s) k = k s := rfl

/-- The check of the commands refused while busy: idle, it goes on; busy, it answers ERR_BUSY. -/
theorem unlessBusy_idle {s : State} (k : Result State) (h : s.blk.encPhase = .idle) : unlessBusy s k = k := by
  simp [unlessBusy, h]

theorem unlessBusy_busy {s : State} (k : Result State) (h : s.blk.encPhase ≠ .idle) :
    unlessBusy s k = .ok (raiseErr .busy s) := by
  simp [unlessBusy, h]

/-- A turn whose agent has no enabled step changes nothing (log 2). -/
theorem txlTurn_waits {s : State} (h : s.rstN = false ∨ s.blk.encPhase = .idle) :
    txlTurn s = .ok s := by
  rcases h with h | h <;> simp [txlTurn, h]

theorem txlTurn_enabled {s : State} (h : s.rstN = true) (h' : s.blk.encPhase ≠ .idle) :
    txlTurn s = txlStep s := by simp [txlTurn, h, h']

theorem rxlTurn_waits {s : State} (h : s.rstN = false ∨ s.blk.decPhase = .hold ∨ s.rxq = []) :
    rxlTurn s = .ok s := by
  unfold rxlTurn
  split
  · rcases h with h | h | h <;> simp_all
  · rfl

theorem rxlTurn_enabled {s : State} {w : Byte} {rest : List Byte} (h : s.rstN = true)
    (h' : s.blk.decPhase ≠ .hold) (hq : s.rxq = w :: rest) :
    rxlTurn s = rxlByte w (acceptByte w rest s) := by simp [rxlTurn, h, h', hq]

/-- HOST's turn in reset is dropped (R240, U9). -/
theorem hostTurn_inReset {w : Word} {s : State} (h : s.rstN = false) : hostTurn w s = .next s := by
  simp [hostTurn, h]

theorem hostTurn_enabled {w : Word} {s : State} (h : s.rstN = true) :
    hostTurn w s = mapNext (logCommand w) (runWord w s) := by simp [hostTurn, h]

@[simp] theorem step_idle {s : State} (h : s.sched = []) : step s = .next (beginStep [] s) := by
  simp [step, h]

theorem step_turn {s : State} {t : Turn} {rest : List Turn} (h : s.sched = t :: rest) :
    step s = takeTurn t (beginStep rest s) := by simp [step, h]

@[simp] theorem playTurns_nil (s : State) : playTurns [] s = .next s := rfl

/-- Playing turns is taking the first and playing the rest. -/
theorem playTurns_cons (t : Turn) (ts : List Turn) (s : State) :
    playTurns (t :: ts) s =
      andThen (takeTurn t (beginStep (ts ++ s.sched) s))
        (fun u => Host.Core.run Sys2Proof.core ts.length u) := by
  have h : Sys2Proof.core.step { s with sched := t :: ts ++ s.sched } =
      takeTurn t (beginStep (ts ++ s.sched) s) := rfl
  simp only [playTurns, List.length_cons, Host.Core.run, h]
  cases takeTurn t (beginStep (ts ++ s.sched) s) <;> rfl

end Sys2Proof.Machine
end

