-- ==== Sys2Proof/Laws/PerInstr.lean ====
section
/-! SUPPORT. What holds of every command as text and as a word, one lemma per command. -/

namespace Sys2Proof.Laws

open Sys2Proof.Machine

/-- A command's word carries its own opcode in bits 15..8, and a form Z command's word carries 0x00 in bits
7..0 (R82 to R84). -/
def EncodesItsForm.Statement (i : Instr) : Prop :=
  opField (encode i) = opcodeOf i ∧ (formOf i = .z → immField (encode i) = 0x00#8)

/-- A command's row is a row of the opcode map and accepts the command's word (R84). -/
def RowListed.Statement (i : Instr) : Prop := rowOf i ∈ opcodeMap ∧ (rowOf i).accepts (encode i) = true

theorem EncodesItsForm.nop : EncodesItsForm.Statement .nop := by
  simp [EncodesItsForm.Statement, encode, opcodeOf, operandOf, formOf]

theorem EncodesItsForm.srst : EncodesItsForm.Statement .srst := by
  simp [EncodesItsForm.Statement, encode, opcodeOf, operandOf, formOf]

theorem EncodesItsForm.cfg : EncodesItsForm.Statement .cfg := by
  simp [EncodesItsForm.Statement, encode, opcodeOf, operandOf, formOf]

theorem EncodesItsForm.status : EncodesItsForm.Statement .status := by
  simp [EncodesItsForm.Statement, encode, opcodeOf, operandOf, formOf]

theorem EncodesItsForm.ckClr : EncodesItsForm.Statement .ckClr := by
  simp [EncodesItsForm.Statement, encode, opcodeOf, operandOf, formOf]

theorem EncodesItsForm.ckByte (d : Byte) : EncodesItsForm.Statement (.ckByte d) := by
  simp [EncodesItsForm.Statement, encode, opcodeOf, operandOf, formOf]

theorem EncodesItsForm.ckRd : EncodesItsForm.Statement .ckRd := by
  simp [EncodesItsForm.Statement, encode, opcodeOf, operandOf, formOf]

theorem EncodesItsForm.encClr : EncodesItsForm.Statement .encClr := by
  simp [EncodesItsForm.Statement, encode, opcodeOf, operandOf, formOf]

theorem EncodesItsForm.encLoad (d : Byte) : EncodesItsForm.Statement (.encLoad d) := by
  simp [EncodesItsForm.Statement, encode, opcodeOf, operandOf, formOf]

theorem EncodesItsForm.encSend : EncodesItsForm.Statement .encSend := by
  simp [EncodesItsForm.Statement, encode, opcodeOf, operandOf, formOf]

theorem EncodesItsForm.encRdcnt : EncodesItsForm.Statement .encRdcnt := by
  simp [EncodesItsForm.Statement, encode, opcodeOf, operandOf, formOf]

theorem EncodesItsForm.encRdck : EncodesItsForm.Statement .encRdck := by
  simp [EncodesItsForm.Statement, encode, opcodeOf, operandOf, formOf]

theorem EncodesItsForm.encRdbuf (i : Nat) : EncodesItsForm.Statement (.encRdbuf i) := by
  simp [EncodesItsForm.Statement, encode, opcodeOf, operandOf, formOf]

theorem EncodesItsForm.decNext : EncodesItsForm.Statement .decNext := by
  simp [EncodesItsForm.Statement, encode, opcodeOf, operandOf, formOf]

theorem EncodesItsForm.decAbort : EncodesItsForm.Statement .decAbort := by
  simp [EncodesItsForm.Statement, encode, opcodeOf, operandOf, formOf]

theorem EncodesItsForm.decRdbuf (i : Nat) : EncodesItsForm.Statement (.decRdbuf i) := by
  simp [EncodesItsForm.Statement, encode, opcodeOf, operandOf, formOf]

theorem EncodesItsForm.decRdck : EncodesItsForm.Statement .decRdck := by
  simp [EncodesItsForm.Statement, encode, opcodeOf, operandOf, formOf]

theorem EncodesItsForm.decRdcnt : EncodesItsForm.Statement .decRdcnt := by
  simp [EncodesItsForm.Statement, encode, opcodeOf, operandOf, formOf]

theorem EncodesItsForm.decClrz : EncodesItsForm.Statement .decClrz := by
  simp [EncodesItsForm.Statement, encode, opcodeOf, operandOf, formOf]

/-- A word whose low byte is masked away keeps its high byte alone. -/
theorem pack_and_highMask (hi lo : Byte) : pack hi lo &&& 0xFF00#16 = pack hi 0x00#8 := by
  have h : (0xFF00#16 : Word) = pack 0xFF#8 0x00#8 := rfl
  rw [h]
  apply BitVec.eq_of_getLsbD_eq
  intro i hi'
  simp only [pack, BitVec.getLsbD_and, BitVec.getLsbD_append]
  split
  · simp
  · have : i - 8 < 8 := by omega
    have h2 : (0xFF#8 : Byte).getLsbD (i - 8) = true := by
      generalize i - 8 = j at this
      revert j; decide
    rw [h2, Bool.and_true]

theorem RowListed.nop : RowListed.Statement .nop := by
  constructor <;> decide

theorem RowListed.srst : RowListed.Statement .srst := by
  constructor <;> decide

theorem RowListed.cfg : RowListed.Statement .cfg := by
  constructor <;> decide

theorem RowListed.status : RowListed.Statement .status := by
  constructor <;> decide

theorem RowListed.ckClr : RowListed.Statement .ckClr := by
  constructor <;> decide

theorem RowListed.ckByte (d : Byte) : RowListed.Statement (.ckByte d) := by
  refine ⟨by simp only [rowOf, opcodeOf, formOf, formMask]; decide, ?_⟩
  simp [OpRow.accepts, rowOf, opcodeOf, operandOf, formOf, formMask, encode, pack_and_highMask]

theorem RowListed.ckRd : RowListed.Statement .ckRd := by
  constructor <;> decide

theorem RowListed.encClr : RowListed.Statement .encClr := by
  constructor <;> decide

theorem RowListed.encLoad (d : Byte) : RowListed.Statement (.encLoad d) := by
  refine ⟨by simp only [rowOf, opcodeOf, formOf, formMask]; decide, ?_⟩
  simp [OpRow.accepts, rowOf, opcodeOf, operandOf, formOf, formMask, encode, pack_and_highMask]

theorem RowListed.encSend : RowListed.Statement .encSend := by
  constructor <;> decide

theorem RowListed.encRdcnt : RowListed.Statement .encRdcnt := by
  constructor <;> decide

theorem RowListed.encRdck : RowListed.Statement .encRdck := by
  constructor <;> decide

theorem RowListed.encRdbuf (i : Nat) : RowListed.Statement (.encRdbuf i) := by
  refine ⟨by simp only [rowOf, opcodeOf, formOf, formMask]; decide, ?_⟩
  simp [OpRow.accepts, rowOf, opcodeOf, operandOf, formOf, formMask, encode, pack_and_highMask]

theorem RowListed.decNext : RowListed.Statement .decNext := by
  constructor <;> decide

theorem RowListed.decAbort : RowListed.Statement .decAbort := by
  constructor <;> decide

theorem RowListed.decRdbuf (i : Nat) : RowListed.Statement (.decRdbuf i) := by
  refine ⟨by simp only [rowOf, opcodeOf, formOf, formMask]; decide, ?_⟩
  simp [OpRow.accepts, rowOf, opcodeOf, operandOf, formOf, formMask, encode, pack_and_highMask]

theorem RowListed.decRdck : RowListed.Statement .decRdck := by
  constructor <;> decide

theorem RowListed.decRdcnt : RowListed.Statement .decRdcnt := by
  constructor <;> decide

theorem RowListed.decClrz : RowListed.Statement .decClrz := by
  constructor <;> decide

end Sys2Proof.Laws
end

