-- ==== Sys2Proof/Tests/Slice0.lean ====
section
/-! SUPPORT. The model's own tests: ill-formed terms that each check refuses, words written out from R82 to R84, single
steps with the results that the rules' own examples give, and for every statement with hypotheses a state that meets
them. -/

namespace Sys2Proof.Tests

open Sys2Proof Sys2Proof.Machine

/-! ### Well-formedness: each check refuses an ill-formed term -/

theorem test_wf_refuses_wide_tx_index : Instr.wf (.encRdbuf 256) = false := by decide

theorem test_wf_refuses_wide_rx_index : Instr.wf (.decRdbuf 256) = false := by decide

theorem test_wf_accepts_last_index : Instr.wf (.encRdbuf 255) = true ∧ Instr.wf (.decRdbuf 255) = true := by decide

theorem test_params_refuse_small_cap : Params.wf ⟨3, 255⟩ = false := by decide

theorem test_params_refuse_large_cap : Params.wf ⟨257, 255⟩ = false := by decide

theorem test_params_refuse_no_txcap : Params.wf ⟨128, 0⟩ = false := by decide

theorem test_params_refuse_large_txcap : Params.wf ⟨128, 256⟩ = false := by decide

theorem test_params_accept_range_ends :
    Params.wf ⟨4, 1⟩ = true ∧ Params.wf ⟨256, 255⟩ = true ∧ Params.wf Config.params = true := by decide

theorem test_pseudo_refuses_long_frame : Pseudo.wf ⟨4, 1⟩ (.encFrame [0x00#8, 0x01#8]) = false := by decide

/-! ### Decoding: words written out bit by bit from R82, R83 and the `op` column of R84 -/

theorem test_decode_device_words :
    decode 0b0000000000000000#16 = .ok .nop ∧ decode 0b0000000100000000#16 = .ok .srst ∧
    decode 0b0000001000000000#16 = .ok .cfg ∧ decode 0b0000001100000000#16 = .ok .status := by decide

theorem test_decode_ck_words :
    decode 0b0001000000000000#16 = .ok .ckClr ∧ decode 0b0001000110000001#16 = .ok (.ckByte 0x81#8) ∧
    decode 0b0001001000000000#16 = .ok .ckRd := by decide

theorem test_decode_enc_words :
    decode 0b0010000000000000#16 = .ok .encClr ∧ decode 0b0010000101111110#16 = .ok (.encLoad 0x7E#8) ∧
    decode 0b0010001000000000#16 = .ok .encSend ∧ decode 0b0010001100000000#16 = .ok .encRdcnt ∧
    decode 0b0010010000000000#16 = .ok .encRdck ∧ decode 0b0010010111111111#16 = .ok (.encRdbuf 255) := by decide

theorem test_decode_dec_words :
    decode 0b0011000000000000#16 = .ok .decNext ∧ decode 0b0011000100000000#16 = .ok .decAbort ∧
    decode 0b0011001010000000#16 = .ok (.decRdbuf 128) ∧ decode 0b0011001100000000#16 = .ok .decRdck ∧
    decode 0b0011010000000000#16 = .ok .decRdcnt ∧ decode 0b0011010100000000#16 = .ok .decClrz := by decide

/-- The illegal words that R194 gives. -/
theorem test_decode_refuses_by_name :
    decode 0x9900#16 = .error (.unassignedOp 0x99#8) ∧ decode 0x1001#16 = .error (.operandNotZero 0x10#8 0x01#8) := by
  decide

theorem test_table_word_decodes :
    decodeTableWord 16 0x2121 = some (.encLoad 0x21#8) ∧ decodeTableWord 16 0x3301 = none := by decide

/-! ### Helpers -/

/-- A machine with these registers and buffers, out of reset. -/
def onBlk (b : Block) : State := { State.reset with blk := b }

/-- What a view of the next state shows, if there is one. -/
def seen {α : Type} (view : State → α) (o : Host.Outcome State Fault Refusal) : Option α :=
  match o with
  | .next s => some (view s)
  | .fault _ => none
  | .refused _ => none

/-- One step on which HOST presents the word `w` to a block. -/
def present (w : Nat) (b : Block) : Host.Outcome State Fault Refusal := step ((onBlk b).withFetchWord 16 w)

/-- One step on which RXL offers the byte `w` to a block. -/
def offer (w : Byte) (b : Block) : Host.Outcome State Fault Refusal :=
  step { onBlk b with sched := [.rxl], rxq := [w] }

/-- One step on which TXL accepts a byte from a block. -/
def accept (b : Block) : Host.Outcome State Fault Refusal := step { onBlk b with sched := [.txl] }

/-- A block that holds the OK frame `7E 01 21 22 23` (V1). -/
def heldBlk : Block :=
  { Block.reset with
    decPhase := .hold, decResult := .ok, decLen := 0x01#8, decIdx := 0x01#8, decS1 := 0x22#8, decS2 := 0x23#8
    rx := [(0, 0x01#8), (1, 0x21#8), (2, 0x22#8), (3, 0x23#8)] }

/-- A block that has just taken ENC_FRAME 0x21. -/
def sendBlk : Block :=
  { Block.reset with txlen := 0x01#8, encCk := 0x2223#16, encPhase := .start, tx := [(0, 0x21#8)] }

/-! ### One step of each command, from the rules' examples -/

theorem test_nop : seen (fun t => (t.rsp, t.blk)) (present 0x0000 heldBlk) = some (some ⟨.ok, 0x0000#16⟩, heldBlk) := by
  decide

/-- R191's example: from STATUS 0x0E4E, SRST gives STATUS 0x0000. -/
theorem test_srst :
    Block.status { heldBlk with encPhase := .ck2 } = 0x0E4E#16 ∧
    seen (fun t => (t.blk.status, t.blk.rx)) (present 0x0100 { heldBlk with encPhase := .ck2 })
      = some (0x0000#16, heldBlk.rx) := by decide

/-- R192's example. -/
theorem test_cfg : seen State.rsp (present 0x0200 Block.reset) = some (some ⟨.ok, 0x7FFF#16⟩) := by decide

/-- R193's examples. -/
theorem test_status :
    seen State.rsp (present 0x0300 heldBlk) = some (some ⟨.ok, 0x004E#16⟩) ∧
    seen State.rsp (present 0x0300 { heldBlk with decResult := .ckfail }) = some (some ⟨.ok, 0x0056#16⟩) ∧
    seen State.rsp (present 0x0300 { heldBlk with decResult := .lenovf }) = some (some ⟨.ok, 0x005E#16⟩) ∧
    seen State.rsp (present 0x0300 sendBlk) = some (some ⟨.ok, 0x0900#16⟩) := by decide

/-- R106's example. -/
theorem test_ckClr :
    seen (fun t => t.blk.ckSums) (present 0x1000 { Block.reset with ckS1 := 0x22#8, ckS2 := 0x23#8 })
      = some (0x00#8, 0x00#8) := by decide

/-- R107's example, second byte. -/
theorem test_ckByte :
    seen (fun t => t.blk.ckSums) (present 0x1121 { Block.reset with ckS1 := 0x01#8, ckS2 := 0x01#8 })
      = some (0x22#8, 0x23#8) := by decide

/-- R107's corner cases: 254 with 0x01 wraps to 0, 254 with 0xFF stays 254. -/
theorem test_ckByte_wraps :
    seen (fun t => t.blk.ckS1) (present 0x1101 { Block.reset with ckS1 := 254#8 }) = some 0#8 ∧
    seen (fun t => t.blk.ckS1) (present 0x11FF { Block.reset with ckS1 := 254#8 }) = some 254#8 := by decide

/-- R108's example. -/
theorem test_ckRd :
    seen State.rsp (present 0x1200 { Block.reset with ckS1 := 0x22#8, ckS2 := 0x23#8 })
      = some (some ⟨.ok, 0x2223#16⟩) := by decide

/-- R125's example. -/
theorem test_encClr : seen (fun t => t.blk.txlen) (present 0x2000 { Block.reset with txlen := 3#8 }) = some 0#8 := by
  decide

theorem test_encClr_busy :
    seen (fun t => (t.rsp, t.blk)) (present 0x2000 sendBlk) = some (some ⟨.busy, 0x0000#16⟩, sendBlk) := by decide

/-- R126's example. -/
theorem test_encLoad :
    seen (fun t => (t.blk.txlen, t.blk.tx)) (present 0x2121 Block.reset) = some (0x01#8, [(0, 0x21#8)]) := by decide

/-- R126's corner case, the 256th load, and R214's order. -/
theorem test_encLoad_full :
    seen State.rsp (present 0x2100 { Block.reset with txlen := 255#8 }) = some (some ⟨.full, 0x0000#16⟩) ∧
    seen State.rsp (present 0x2100 { Block.reset with txlen := 255#8, encPhase := .data })
      = some (some ⟨.busy, 0x0000#16⟩) := by decide

/-- R127's example. -/
theorem test_encSend :
    seen (fun t => t.blk) (present 0x2200 { Block.reset with txlen := 0x01#8, tx := [(0, 0x21#8)] }) = some sendBlk := by
  decide

/-- R128's example. -/
theorem test_encRdcnt :
    seen State.rsp (present 0x2300 { sendBlk with encPhase := .data }) = some (some ⟨.ok, 0x0001#16⟩) := by decide

theorem test_encRdck : seen State.rsp (present 0x2400 sendBlk) = some (some ⟨.ok, 0x2223#16⟩) := by decide

/-- R130's example, and its bound. -/
theorem test_encRdbuf :
    seen State.rsp (present 0x2500 sendBlk) = some (some ⟨.ok, 0x0021#16⟩) ∧
    seen State.rsp (present 0x25FF sendBlk) = some (some ⟨.range, 0x0000#16⟩) := by decide

/-- A byte not written since reset: an answer without error, and a free value drawn (U1). -/
theorem test_encRdbuf_unwritten :
    seen (fun t => (t.rsp.map Response.err, t.freeIdx)) (present 0x25FE sendBlk) = some (some .ok, 1) := by decide

/-- R170's example. -/
theorem test_decNext :
    seen (fun t => t.blk.status) (present 0x3000 { heldBlk with decResult := .ckfail }) = some 0x0000#16 := by decide

theorem test_decNext_outside_hold :
    seen State.rsp (present 0x3000 Block.reset) = some (some ⟨.state, 0x0000#16⟩) := by decide

/-- R172's example. -/
theorem test_decAbort :
    seen (fun t => (t.blk.decPhase, t.blk.decIdx))
      (present 0x3100 { Block.reset with decPhase := .data, decLen := 5#8, decIdx := 1#8 })
      = some (.hunt, 1#8) := by decide

/-- R173's example, and its bound. -/
theorem test_decRdbuf :
    seen State.rsp (present 0x3201 heldBlk) = some (some ⟨.ok, 0x0021#16⟩) ∧
    seen State.rsp (present 0x3280 heldBlk) = some (some ⟨.range, 0x0000#16⟩) := by decide

theorem test_decRdck : seen State.rsp (present 0x3300 heldBlk) = some (some ⟨.ok, 0x2223#16⟩) := by decide

/-- R175's example, with R156. -/
theorem test_decRdcnt :
    seen State.rsp (present 0x3400 { heldBlk with decLen := 0x7E#8, decIdx := 0x00#8 })
      = some (some ⟨.ok, 0x7E00#16⟩) := by decide

theorem test_decClrz :
    seen (fun t => (t.blk.zlen, t.blk.decPhase)) (present 0x3500 { heldBlk with zlen := true })
      = some (false, .hold) := by decide

/-- R194's example. -/
theorem test_illegal_word :
    seen (fun t => (t.rsp, t.cmdLog)) (present 0x9900 Block.reset)
      = some (some ⟨.illegal, 0x0000#16⟩, [(0x9900#16, ⟨.illegal, 0x0000#16⟩)]) := by decide

/-! ### One step of each line -/

/-- R134: 0x7D is escaped, the index stays. R135: the second byte is XORed with 0x20. -/
theorem test_txl_escape :
    seen (fun t => (t.txLog, t.blk.encPhase, t.blk.encIdx))
      (accept { sendBlk with encPhase := .data, tx := [(0, 0x7D#8)] }) = some ([0x7D#8], .esc2, 0#8) ∧
    seen (fun t => (t.txLog, t.blk.encPhase, t.blk.encIdx))
      (accept { sendBlk with encPhase := .esc2, tx := [(0, 0x7D#8)] }) = some ([0x5D#8], .ck1, 1#8) := by decide

/-- R153 to R156: the three cases of the length byte, at the ends of their ranges (LMAX = 125). -/
theorem test_rxl_length :
    seen (fun t => t.blk.decPhase) (offer 1#8 { Block.reset with decPhase := .len }) = some .data ∧
    seen (fun t => t.blk.decPhase) (offer 125#8 { Block.reset with decPhase := .len }) = some .data ∧
    seen (fun t => (t.blk.decPhase, t.blk.decResult)) (offer 126#8 { Block.reset with decPhase := .len })
      = some (.hold, .lenovf) ∧
    seen (fun t => (t.blk.decPhase, t.blk.zlen)) (offer 0#8 { Block.reset with decPhase := .len })
      = some (.hunt, true) := by decide

/-- R159's examples: `7D 41` gives 0x61, `7D 7E` gives 0x5E. -/
theorem test_rxl_escape :
    seen (fun t => Memory.read? t.blk.rx 1) (offer 0x41#8 { Block.reset with decPhase := .esc, decLen := 2#8 })
      = some (some 0x61#8) ∧
    seen (fun t => Memory.read? t.blk.rx 1) (offer 0x7E#8 { Block.reset with decPhase := .esc, decLen := 2#8 })
      = some (some 0x5E#8) := by decide

/-- R161: `7E 01 21 22 23` ends OK, `7E 01 21 22 24` ends CKFAIL. -/
theorem test_rxl_checksum :
    seen (fun t => t.blk) (offer 0x23#8 { heldBlk with decPhase := .ck2, decResult := .none, rx := heldBlk.rx.take 3 })
      = some heldBlk ∧
    seen (fun t => t.blk.decResult)
      (offer 0x24#8 { heldBlk with decPhase := .ck2, decResult := .none, rx := heldBlk.rx.take 3 })
      = some .ckfail := by decide

/-- R25: a held RXL keeps its byte. -/
theorem test_rxl_held : seen (fun t => (t.rxq, t.blk)) (offer 0x7E#8 heldBlk) = some ([0x7E#8], heldBlk) := by decide

/-- R240: a hard reset in the middle of a frame. -/
theorem test_hard_reset :
    seen (fun t => (t.blk, t.rstN)) (step { onBlk sendBlk with sched := [.rstLow] }) = some (Block.reset, false) := by
  decide

/-- R122: the wire image of the probe of R245, and of one escaped byte (checksum of `01 7E` by hand). -/
theorem test_wire_image :
    wireImage [0x21#8] = [0x7E#8, 0x01#8, 0x21#8, 0x22#8, 0x23#8] ∧
    wireImage [0x7E#8] = [0x7E#8, 0x01#8, 0x7D#8, 0x5E#8, 0x7F#8, 0x80#8] := by decide

theorem test_reset_memory_form : Memory.wf State.reset.blk.rx = true ∧ Memory.wf State.reset.blk.tx = true := by decide

/-- The assembler's forms (R87, R88). -/
theorem test_parse_lines :
    parseLine Config.params "ENC_LOAD 0x7e ; a payload byte".toList = some (.cmd (.encLoad 0x7E#8)) ∧
    parseLine Config.params "CK_SEQ 1, 0x21".toList = some (.pseudo (.ckSeq [0x01#8, 0x21#8])) ∧
    parseLine Config.params ".word 0x9900".toList = some (.word 0x9900#16) ∧
    parseLine Config.params "ENC_LOAD 256".toList = none := by decide

/-- ENC_FRAME up to the bound of R88, above it, and with no operand (log 24). -/
theorem test_parse_frame_bound :
    parseLine ⟨4, 2⟩ "ENC_FRAME 1, 2".toList = some (.pseudo (.encFrame [1#8, 2#8])) ∧
    parseLine ⟨4, 2⟩ "ENC_FRAME 1, 2, 3".toList = none ∧
    parseLine ⟨4, 2⟩ "ENC_FRAME".toList = some (.pseudo (.encFrame [])) ∧
    parseLine ⟨4, 2⟩ "CK_SEQ".toList = some (.pseudo (.ckSeq [])) := by decide

/-! ### Other capacities (R7, R9) -/

/-- `CAP = 256`: CFG shows it, index 0x80 is in range, and the length 126 is accepted (LMAX = 253). -/
theorem test_largest_cap :
    seen State.rsp (exec .cfg { State.reset with params := ⟨256, 1⟩ }) = some (some ⟨.ok, 0xFF01#16⟩) ∧
    seen (fun t => t.rsp.map Response.err) (exec (.decRdbuf 0x80) { State.reset with params := ⟨256, 1⟩ })
      = some (some .ok) ∧
    seen (fun t => t.blk.decPhase)
      (step { onBlk { Block.reset with decPhase := .len } with
        params := ⟨256, 1⟩, sched := [.rxl], rxq := [126#8] }) = some .data := by decide

/-- `CAP = 4` and `TXCAP = 1`: the length 2 overflows (LMAX = 1), and a second load finds TX full. -/
theorem test_smallest_capacities :
    seen (fun t => t.blk.decResult)
      (step { onBlk { Block.reset with decPhase := .len } with
        params := ⟨4, 1⟩, sched := [.rxl], rxq := [2#8] }) = some .lenovf ∧
    seen State.rsp (exec (.encLoad 0x00#8) { onBlk { Block.reset with txlen := 1#8 } with params := ⟨4, 1⟩ })
      = some (some ⟨.full, 0x0000#16⟩) := by decide

/-! ### Witnesses: the hypotheses of every statement can be met -/

theorem witness_decode_of_encode : WellFormed (.encRdbuf 255) ∧ WellFormed (.decRdbuf 0) ∧ WellFormed .nop := by decide

theorem witness_encode_of_decode : decode 0x25FF#16 = .ok (.encRdbuf 255) := by decide

theorem witness_opcode_map :
    decode 0x1100#16 = .ok (.ckByte 0x00#8) ∧
    (∃ r ∈ opcodeMap, r.accepts 0x11FF#16 = true) ∧ ∀ r ∈ opcodeMap, r.accepts 0xFFFF#16 = false := by decide

theorem witness_assembler : WellFormed (.encRdbuf 255) := by decide

theorem witness_step_runs :
    (presentWord 0x2121#16 State.reset).sched = .cmd 0x2121#16 :: [] ∧ (presentWord 0x2121#16 State.reset).rstN = true ∧
    decode 0x2121#16 = .ok (.encLoad 0x21#8) := by decide

theorem witness_illegal_word :
    (presentWord 0x0400#16 State.reset).sched = .cmd 0x0400#16 :: [] ∧ (presentWord 0x0400#16 State.reset).rstN = true ∧
    (∀ r ∈ opcodeMap, r.accepts 0x0400#16 = false) ∧ ∀ r ∈ opcodeMap, r.accepts 0x3301#16 = false := by decide

theorem witness_error_and_success :
    runWord 0x3000#16 State.reset = .next { State.reset with rsp := some ⟨.state, 0x0000#16⟩ } ∧
    runWord 0x0000#16 State.reset = .next { State.reset with rsp := some ⟨.ok, 0x0000#16⟩ } := ⟨rfl, rfl⟩

/-- Each of the five error cases of R211 arises. -/
theorem witness_each_error :
    exec (.encLoad 0x00#8) (onBlk sendBlk) = .next { onBlk sendBlk with rsp := some ⟨.busy, 0x0000#16⟩ } ∧
    seen State.rsp (exec (.encLoad 0x00#8) (onBlk { Block.reset with txlen := 255#8 }))
      = some (some ⟨.full, 0x0000#16⟩) ∧
    exec (.encRdbuf 255) State.reset = .next { State.reset with rsp := some ⟨.range, 0x0000#16⟩ } ∧
    exec (.decRdbuf 128) State.reset = .next { State.reset with rsp := some ⟨.range, 0x0000#16⟩ } ∧
    exec .decNext State.reset = .next { State.reset with rsp := some ⟨.state, 0x0000#16⟩ } :=
  ⟨rfl, rfl, rfl, rfl, rfl⟩

theorem witness_reads_and_clears :
    exec .ckRd State.reset = .next { State.reset with rsp := some ⟨.ok, 0x0000#16⟩ } ∧
    exec .encClr State.reset = .next { State.reset with rsp := some ⟨.ok, 0x0000#16⟩ } ∧
    exec .encClr { State.reset with rsp := some ⟨.ok, 0x0000#16⟩ }
      = .next { State.reset with rsp := some ⟨.ok, 0x0000#16⟩ } := ⟨rfl, rfl, rfl⟩

/-- The repeated buffer read is of a written byte. -/
theorem witness_repeated_read :
    Memory.read? (onBlk heldBlk).blk.rx 1 ≠ none ∧
    exec (.decRdbuf 1) (onBlk heldBlk) = .next { onBlk heldBlk with rsp := some ⟨.ok, 0x0021#16⟩ } ∧
    exec (.decRdbuf 1) { onBlk heldBlk with rsp := some ⟨.ok, 0x0021#16⟩ }
      = .next { onBlk heldBlk with rsp := some ⟨.ok, 0x0021#16⟩ } := ⟨by decide, rfl, rfl⟩

/-- A command outside each unit, for the frame of every command. -/
theorem witness_frame :
    exec .cfg State.reset = .next { State.reset with rsp := some ⟨.ok, 0x7FFF#16⟩ } ∧
    Instr.cfg ≠ .srst ∧ Instr.cfg ≠ .ckClr ∧ (∀ d, Instr.cfg ≠ .ckByte d) ∧ Instr.cfg ≠ .encClr ∧
    Instr.cfg ≠ .encSend ∧ (∀ d, Instr.cfg ≠ .encLoad d) ∧ Instr.cfg ≠ .decNext ∧ Instr.cfg ≠ .decAbort ∧
    Instr.cfg ≠ .decClrz := by
  refine ⟨rfl, ?_, ?_, ?_, ?_, ?_, ?_, ?_, ?_, ?_⟩ <;> simp

theorem witness_params : State.reset.params = Config.params ∧ State.reset.params.wf = true ∧ Params.wf ⟨4, 1⟩ = true ∧ Params.wf ⟨256, 255⟩ = true := by decide

/-- A block for each of R193's examples. -/
theorem witness_status :
    heldBlk.zlen = false ∧ heldBlk.encPhase = .idle ∧ heldBlk.decPhase = .hold ∧ heldBlk.decResult = .ok ∧
    ({ heldBlk with decResult := .ckfail } : Block).decResult = .ckfail ∧
    ({ heldBlk with decResult := .lenovf } : Block).decResult = .lenovf ∧
    sendBlk.encPhase = .start ∧ sendBlk.decPhase = .hunt ∧ sendBlk.decResult = .none ∧ sendBlk.zlen = false := by decide

theorem witness_ckByte : (254#8).toNat ≤ 254 ∧ (onBlk { Block.reset with ckS1 := 254#8 }).blk.ckS1.toNat ≤ 254 := by
  decide

theorem witness_ckSeq : State.reset.rstN = true := by decide

theorem witness_carry : (254#8).toNat ≤ 254 ∧ (0#8).toNat ≤ 254 := by decide

theorem witness_encClr : Block.reset.encPhase = .idle ∧ sendBlk.encPhase ≠ .idle := by decide

/-- ENC_LOAD: busy, full, and the last load that fits. -/
theorem witness_encLoad :
    State.reset.params.wf = true ∧ State.reset.params.txcap = 255 ∧
    sendBlk.encPhase ≠ .idle ∧
    ({ Block.reset with txlen := 255#8 } : Block).encPhase = .idle ∧
    ({ Block.reset with txlen := 255#8 } : Block).txlen.toNat = 255 ∧
    ({ Block.reset with txlen := 254#8 } : Block).txlen.toNat < 255 := by decide

theorem reset_holds_no_payload : HoldsPayload Block.reset [] := ⟨rfl, fun _ h => absurd h (Nat.not_lt_zero _)⟩

theorem sendBlk_holds_payload : HoldsPayload sendBlk [0x21#8] := by
  refine ⟨rfl, fun j h => ?_⟩
  obtain rfl : j = 0 := by simpa using h
  rfl

/-- ENC_SEND: busy, an empty payload, and a payload of one byte. -/
theorem witness_encSend :
    Block.reset.txlen.toNat ≤ State.reset.params.txcap ∧ sendBlk.txlen.toNat ≤ State.reset.params.txcap ∧
    sendBlk.encPhase ≠ .idle ∧ HoldsPayload Block.reset [] ∧ Block.reset.encPhase = .idle ∧
    HoldsPayload { sendBlk with encPhase := .idle } [0x21#8] :=
  ⟨by decide, by decide, by decide, reset_holds_no_payload, rfl, sendBlk_holds_payload⟩

/-- The bounds of the two buffer reads, and a byte that is written. -/
theorem witness_buffer_reads :
    (State.reset.params.txcap ≤ 255 ∧ 254 < State.reset.params.txcap) ∧
    (State.reset.params.cap ≤ 128 ∧ 127 < State.reset.params.cap) ∧ Memory.read? sendBlk.tx 0 = some 0x21#8 ∧
    Memory.read? heldBlk.rx 3 = some 0x23#8 := by decide

theorem witness_encFrame :
    State.reset.params.wf = true ∧ (List.replicate 255 0x7E#8).length ≤ State.reset.params.txcap ∧ State.reset.rstN = true ∧ State.reset.blk.encPhase = .idle :=
  ⟨by decide, by rw [List.length_replicate]; decide, rfl, rfl⟩

/-- A state in which TXL accepts a byte in each phase that emits. -/
theorem witness_txl :
    ({ onBlk sendBlk with sched := [.txl] } : State).sched = .txl :: [] ∧ (onBlk sendBlk).rstN = true ∧
    sendBlk.encPhase = .start ∧ ({ sendBlk with encPhase := .len } : Block).encPhase = .len ∧
    ({ sendBlk with encPhase := .ck1 } : Block).encPhase = .ck1 ∧
    ({ sendBlk with encPhase := .ck2 } : Block).encPhase = .ck2 := by decide

/-- The payload bytes: an escaped one, a plain one, the second escape byte, and the last index. -/
theorem witness_txl_payload :
    Memory.read? [(254, 0x7E#8)] 254 = some 0x7E#8 ∧ (254#8).toNat < State.reset.params.txcap ∧ Memory.read? sendBlk.tx 0 = some 0x21#8 ∧
    (0x21#8 ≠ 0x7E#8 ∧ 0x21#8 ≠ 0x7D#8) := by decide

theorem witness_send :
    ([] : List Byte).length ≤ State.reset.params.txcap ∧ State.reset.rstN = true ∧ State.reset.blk.encPhase = .idle ∧ HoldsPayload State.reset.blk [] :=
  ⟨by decide, rfl, rfl, reset_holds_no_payload⟩

/-- RXL with a byte to offer in HUNT: the start marker, and any other byte. -/
theorem witness_hunt :
    ({ State.reset with sched := [.rxl], rxq := [0x7E#8, 0x7D#8] } : State).rxq = 0x7E#8 :: [0x7D#8] ∧
    State.reset.blk.decPhase = .hunt ∧ State.reset.rstN = true ∧ 0x7D#8 ≠ 0x7E#8 := by decide

theorem witness_length :
    ({ onBlk { Block.reset with decPhase := .len } with sched := [.rxl], rxq := [0x7E#8] } : State).blk.decPhase = .len ∧
    State.reset.params.wf = true ∧ State.reset.params.lmax < (0x7E#8).toNat ∧
    ¬ State.reset.params.lmax < (0x7D#8).toNat := by decide

/-- The last payload index of RX, in both phases of the payload, and the two ways a byte is stored. -/
theorem witness_payload :
    1 + (126#8).toNat < State.reset.params.cap ∧ ({ Block.reset with decPhase := .data, decIdx := 126#8 } : Block).decPhase = .data ∧
    ({ Block.reset with decPhase := .esc } : Block).decPhase = .esc ∧
    (0x7E#8 ≠ 0x7D#8) ∧ (0x5E#8 = 0x7E#8 ^^^ 0x20#8) := by decide

/-- The largest length, in both phases of the checksum, with the first checksum byte stored. -/
theorem witness_checksum :
    (125#8).toNat + 2 < State.reset.params.cap ∧ Memory.read? heldBlk.rx (heldBlk.decLen.toNat + 1) = some 0x22#8 ∧
    ({ heldBlk with decPhase := .ck1 } : Block).decPhase = .ck1 ∧
    ({ heldBlk with decPhase := .ck2 } : Block).decPhase = .ck2 := by decide

/-- Each kind of turn that has no step. -/
theorem witness_waiting :
    heldBlk.decPhase = .hold ∧ State.reset.rxq = [] ∧ Block.reset.encPhase = .idle ∧
    (hardReset State.reset).rstN = false ∧ Turn.cmd 0x0000#16 ≠ .rstLow ∧ Turn.cmd 0x0000#16 ≠ .rstHigh := by decide

theorem witness_decodeOne :
    State.reset.params.wf = true ∧ State.reset.rstN = true ∧ State.reset.blk.decPhase = .hunt ∧ State.reset.blk.decResult = .none ∧
    (decodeOne Config.params [0x7E#8, 0x00#8, 0x7E#8, 0x7E#8]) = ⟨.lenovf 0x7E#8, 4, true⟩ := by decide

/-- A shortest and a longest payload, with garbage before the frame. -/
theorem witness_round_trip :
    ({ State.reset with rxq := [0x7D#8] ++ wireImage [0x7E#8] ++ [0x00#8] } : State).rxq
      = [0x7D#8] ++ wireImage [0x7E#8] ++ [0x00#8] ∧
    0x7E#8 ∉ [0x7D#8] ∧ State.reset.params.wf = true ∧
    (1 ≤ [0x7E#8].length ∧ [0x7E#8].length ≤ State.reset.params.lmax) := by decide

theorem witness_longest_payload :
    1 ≤ (List.replicate 125 0x7D#8).length ∧ (List.replicate 125 0x7D#8).length ≤ Config.params.lmax ∧
    (List.replicate 125 0x7D#8).length ≤ Config.params.txcap := by
  rw [List.length_replicate]; decide

/-- A state in the middle of both directions: ENC has to send the empty frame, DEC has taken a start marker. -/
def midway : State :=
  { onBlk { Block.reset with encPhase := .start, decPhase := .len } with
    sched := [.rxl, .txl], rxq := List.replicate 253 0x7D#8 }

theorem midway_holds_no_payload : HoldsPayload midway.blk [] := ⟨rfl, fun _ h => absurd h (Nat.not_lt_zero _)⟩

theorem midway_inv : Inv midway := by
  refine ⟨by decide, ⟨?_, ⟨rfl, rfl, rfl, rfl, [], midway_holds_no_payload⟩, ?_, ?_⟩, fun h => absurd h (by decide)⟩
  · constructor <;> decide
  · refine ⟨by decide, fun h => absurd h (by decide), fun p _ h => ?_⟩
    obtain rfl : p = [] := List.length_eq_zero_iff.1 h.1.symm
    decide
  · refine ⟨fun h => absurd h (by decide), by decide, by decide, fun h => absurd h (by decide),
      fun h => absurd h (by decide), fun h => absurd h (by decide)⟩

/-- The hypotheses of the statements about states that meet the invariant. -/
theorem witness_inv :
    Inv midway ∧ midway.rstN = true ∧ midway.blk.decPhase = .len ∧
    1 + 2 * midway.params.lmax + 2 ≤ midway.rxq.length ∧
    midway.sched = .rxl :: [.txl] ∧ Turn.rxl ≠ .rstLow ∧ Turn.rxl ≠ .cmd 0x0100#16 ∧
    midway.blk.encPhase ≠ .idle ∧ HoldsPayload midway.blk [] ∧ (∃ t, step midway = .next t) :=
  ⟨midway_inv, rfl, rfl, List.length_replicate.ge, rfl, by decide, by decide, by decide, midway_holds_no_payload, _, rfl⟩

/-- The port shows the start marker on a TXL turn that hands it over, and nothing while ENC is idle. -/
theorem witness_port :
    txPort { midway with sched := [.txl] } = some 0x7E#8 ∧
    seen State.txLog (step { midway with sched := [.txl] }) = some [0x7E#8] ∧
    txPort { State.reset with sched := [.txl] } = none ∧
    seen State.txLog (step { State.reset with sched := [.txl] }) = some [] := by decide

/-- A step other than ENC_CLR from a state with `enc_idx <= txlen`, and a run without ENC_CLR. -/
theorem witness_index_in_payload :
    Inv midway ∧ midway.sched = .rxl :: [.txl] ∧ Turn.rxl ≠ .cmd 0x2000#16 ∧
    midway.blk.encIdx.toNat ≤ midway.blk.txlen.toNat ∧ (∃ t, step midway = .next t) ∧
    Turn.cmd 0x2000#16 ∉ [Turn.cmd 0x2121#16, .cmd 0x2200#16, .txl] :=
  ⟨midway_inv, rfl, by decide, by decide, ⟨_, rfl⟩, by decide⟩

/-- The contiguous emission also on a TXL turn. -/
theorem witness_emission_txl :
    ({ midway with sched := [.txl] } : State).sched = .txl :: [] ∧
    (∃ t, step { midway with sched := [.txl] } = .next t) := ⟨rfl, _, rfl⟩

theorem witness_held :
    ({ onBlk heldBlk with sched := [.txl] } : State).sched = .txl :: [] ∧ heldBlk.decPhase = .hold ∧
    (∃ t, step { onBlk heldBlk with sched := [.txl] } = .next t) ∧ irqFrame (onBlk heldBlk) = true := ⟨rfl, rfl, ⟨_, rfl⟩, rfl⟩

theorem witness_attempt :
    midway.blk.decPhase.inAttempt = true ∧ ∃ t, step { midway with sched := [.txl] } = .next t := ⟨rfl, _, rfl⟩

/-- `zlen` falls on DEC_CLRZ and rises on a zero length. -/
theorem witness_zlen :
    seen (fun t => t.blk.zlen) (present 0x3500 { Block.reset with zlen := true }) = some false ∧
    seen (fun t => t.blk.zlen) (offer 0x00#8 { Block.reset with decPhase := .len }) = some true := by decide

theorem witness_decNext : heldBlk.decPhase = .hold ∧ Block.reset.decPhase ≠ .hold := by decide

theorem witness_hard_reset :
    ({ onBlk sendBlk with sched := [.rstLow] } : State).sched = .rstLow :: [] ∧ (hardReset (onBlk sendBlk)).rstN = false ∧
    Turn.rstLow ∉ [Turn.cmd 0x0000#16, .rxl, .txl] ∧ Turn.rstHigh ∉ [Turn.cmd 0x0000#16, .rxl, .txl] := by decide

theorem witness_line_steps :
    (∃ t, step { midway with sched := [.rxl] } = .next t) ∧ ∃ t, step { midway with sched := [.txl] } = .next t :=
  ⟨⟨_, rfl⟩, ⟨_, rfl⟩⟩

theorem witness_form_z :
    (0x01#8 ≠ 0x00#8) ∧ runWord (pack 0x10#8 0x01#8) State.reset
      = .next { State.reset with rsp := some ⟨.illegal, 0x0000#16⟩ } := ⟨by decide, rfl⟩

end Sys2Proof.Tests
end

section
/-! SUPPORT. What one step of each agent can do, said once: the command behind a word, the writes of a command, of an RXL
byte and of a TXL byte, and the inversion of the three into one list of cases for a step of the machine. -/

namespace Sys2Proof.Machine

/-! ### The word of a command (R82 to R84) -/

theorem decodeZ_eq_ok {op imm : Byte} {i j : Instr} :
    decodeZ op imm i = .ok j ↔ imm = 0x00#8 ∧ i = j := by
  unfold decodeZ; split <;> simp_all

/-- A word is its opcode, read as a number, beside its operand byte. -/
theorem pack_of_opField {w : Word} {k : Nat} (hk : (opField w).toNat = k) :
    pack (BitVec.ofNat 8 k) (immField w) = w := by
  subst hk
  rw [BitVec.ofNat_toNat, BitVec.setWidth_eq]
  exact pack_hiByte_loByte w

/-- A form Z command that a word decodes to has that word. -/
theorem encode_of_decodeZ {w : Word} {k : Nat} {i j : Instr} (hk : (opField w).toNat = k)
    (h : decodeZ (opField w) (immField w) i = .ok j) (hi : encode i = pack (BitVec.ofNat 8 k) 0x00#8) :
    encode j = w := by
  obtain ⟨himm, rfl⟩ := decodeZ_eq_ok.1 h
  rw [hi, ← himm, pack_of_opField hk]

/-- A form B or I command that a word decodes to has that word. -/
theorem encode_of_operand {w : Word} {k : Nat} {i j : Instr} (hk : (opField w).toNat = k)
    (h : Except.ok i = (Except.ok j : Except DecodeError Instr)) (hi : encode i = pack (BitVec.ofNat 8 k) (immField w)) :
    encode j = w := by
  cases h
  rw [hi, pack_of_opField hk]

/-- An index operand is encoded as the byte it was read from (R83). -/
theorem ofNat_indexOperand (b : Byte) : BitVec.ofNat 8 (indexOperand b) = b := by
  rw [indexOperand, BitVec.ofNat_toNat, BitVec.setWidth_eq]

/-- A word that decodes is the word of the command it decodes to. -/
theorem encode_eq_of_decode {w : Word} {i : Instr} (h : decode w = .ok i) : encode i = w := by
  simp only [decode] at h
  split at h
  -- The rows of form B, those of form I, no row, and the rows of form Z.
  case h_6 hk | h_9 hk => exact encode_of_operand hk h rfl
  case h_13 hk | h_16 hk => exact encode_of_operand hk h (congrArg (pack _) (ofNat_indexOperand _))
  case h_20 => cases h
  all_goals
    rename_i hk
    exact encode_of_decodeZ hk h rfl

/-! ### The writes of a command -/

/-- The registers and buffers that a command can leave behind, from a block `b` at capacities `P`: an error or a read
writes nothing, and every other outcome is the write that the command's own rule names. -/
inductive CommandWrites (P : Params) (b : Block) : Instr → Block → Prop where
  | nothing (i : Instr) : CommandWrites P b i b
  | srst : CommandWrites P b .srst b.softReset
  | ckClr : CommandWrites P b .ckClr (b.withCk (0x00#8, 0x00#8))
  | ckByte (d : Byte) : CommandWrites P b (.ckByte d) (b.withCk (flStep b.ckSums d))
  | encClr (hidle : b.encPhase = .idle) : CommandWrites P b .encClr { b with txlen := 0x00#8 }
  | encLoad (d : Byte) (hidle : b.encPhase = .idle) (hroom : b.txlen.toNat < P.txcap) :
      CommandWrites P b (.encLoad d)
        { b with tx := Memory.write b.tx b.txlen.toNat d, txlen := b.txlen + 1#8 }
  | encSend (bs : List Byte) (hidle : b.encPhase = .idle)
      (hread : ∀ p, HoldsPayload b p → p.length ≤ P.txcap → bs = p) :
      CommandWrites P b .encSend
        { b with encCk := fletcher16 (b.txlen :: bs), encIdx := 0x00#8, encPhase := .start }
  | decNext (hhold : b.decPhase = .hold) : CommandWrites P b .decNext b.toHunt
  | decAbort : CommandWrites P b .decAbort b.toHunt
  | decClrz : CommandWrites P b .decClrz { b with zlen := false }

theorem SameInputs.refl (s : State) : SameInputs s s := ⟨rfl, rfl, rfl, rfl, rfl, rfl, rfl⟩

theorem SameInputs.emit {s t : State} (h : SameInputs s t) (x : Byte) (b : Block) :
    SameInputs (emit x s) (emit x (t.withBlk b)) := by
  simp_all [SameInputs]

theorem SameInputs.trans {s t u : State} (h : SameInputs s t) (h' : SameInputs t u) : SameInputs s u := by
  simp_all [SameInputs]

/-- Reading a cell gives the written byte, where one was written, and changes nothing but the count of free values. -/
theorem readCell_eq {m : Memory} {i : Nat} {s t : State} {x : Byte} (h : readCell m i s = (x, t)) :
    SameInputs s t ∧ t.blk = s.blk ∧ ∀ v, Memory.read? m i = some v → x = v := by
  obtain ⟨v, hv, hcell⟩ | ⟨hnone, hcell⟩ := readCell_cases m i s
  · cases h.symm.trans hcell
    exact ⟨.refl _, rfl, fun u hu => Option.some.inj (hv.symm.trans hu)⟩
  · cases h.symm.trans hcell
    exact ⟨.refl s, rfl, by simp [hnone]⟩

/-- Reading a written payload gives the payload. -/
theorem readTxSpan_of_holdsPayload {s : State} {p : List Byte} (h : HoldsPayload s.blk p)
    (hcap : p.length ≤ s.params.txcap) : readTxSpan s.blk.txlen.toNat 0 s = .ok (p, s) := by
  rw [h.1]
  exact readTxSpan_of_written p 0 s (by omega) h.2

/-- A span read changes nothing but the count of free values. -/
theorem readTxSpan_frame {n i : Nat} {s t : State} {bs : List Byte} (h : readTxSpan n i s = .ok (bs, t)) :
    SameInputs s t ∧ t.blk = s.blk := by
  induction n generalizing i s bs with
  | zero => cases h; exact ⟨.refl _, rfl⟩
  | succ n ih =>
    obtain ⟨⟨b, u⟩, hu, h⟩ := onOk_eq_ok h
    obtain ⟨⟨cs, v⟩, hv, h⟩ := onOk_eq_ok h
    obtain ⟨hinputs, hblk, -⟩ := readCell_eq (readTx_eq_ok.1 hu).2
    cases h
    obtain ⟨hinputs', hblk'⟩ := ih hv
    exact ⟨hinputs.trans hinputs', hblk'.trans hblk⟩

/-- A command refused while busy that completes either answered ERR_BUSY or found ENC idle. -/
theorem unlessBusy_eq_ok {s t : State} {k : Result State} (h : unlessBusy s k = .ok t) :
    t = raiseErr .busy s ∨ s.blk.encPhase = .idle ∧ k = .ok t := by
  by_cases hidle : s.blk.encPhase = .idle
  · rw [unlessBusy_idle k hidle] at h
    exact .inr ⟨hidle, h⟩
  · rw [unlessBusy_busy k hidle] at h
    exact .inl (by cases h; rfl)

theorem execEncClr_cases {s t : State} (h : execEncClr s = .next t) :
    SameInputs s t ∧ CommandWrites s.params s.blk .encClr t.blk := by
  obtain rfl | ⟨hidle, h⟩ := unlessBusy_eq_ok (settle_eq_next h)
  · exact ⟨.refl s, .nothing _⟩
  · cases h
    exact ⟨.refl s, .encClr hidle⟩

theorem execEncLoad_cases {d : Byte} {s t : State} (h : execEncLoad d s = .next t) :
    SameInputs s t ∧ CommandWrites s.params s.blk (.encLoad d) t.blk := by
  obtain rfl | ⟨hidle, h⟩ := unlessBusy_eq_ok (settle_eq_next h)
  · exact ⟨.refl s, .nothing _⟩
  · split at h
    · cases h
      exact ⟨.refl s, .nothing _⟩
    · obtain ⟨u, hu, h⟩ := onOk_eq_ok h
      obtain ⟨hroom, rfl⟩ := writeTx_eq_ok.1 hu
      cases h
      exact ⟨.refl s, .encLoad d hidle hroom⟩

theorem execEncSend_cases {s t : State} (h : execEncSend s = .next t) :
    SameInputs s t ∧ CommandWrites s.params s.blk .encSend t.blk := by
  obtain rfl | ⟨hidle, h⟩ := unlessBusy_eq_ok (settle_eq_next h)
  · exact ⟨.refl s, .nothing _⟩
  · obtain ⟨⟨bs, u⟩, hu, h⟩ := onOk_eq_ok h
    obtain ⟨hinputs, hblk⟩ := readTxSpan_frame hu
    have hread : ∀ p, HoldsPayload s.blk p → p.length ≤ s.params.txcap → bs = p := by
      intro p hp hcap
      have := hu.symm.trans (readTxSpan_of_holdsPayload hp hcap)
      cases this
      rfl
    cases h
    refine ⟨hinputs, ?_⟩
    rw [respond_blk, State.withBlk_blk, hblk]
    exact .encSend bs hidle hread

/-- A buffer read that completes wrote nothing. -/
theorem readCommand_cases {i : Instr} {s t : State} {c : Prop} [Decidable c] {e : ErrCode}
    {m : Memory} {k : Nat} {r : Result (Byte × State)} (hr : ∀ x, r = .ok x → readCell m k s = x)
    (h : settle (if c then .ok (raiseErr e s) else onOk r fun (b, t) => .ok (respond (zext16 b) t)) = .next t) :
    SameInputs s t ∧ CommandWrites s.params s.blk i t.blk := by
  have h := settle_eq_next h
  split at h
  · cases h
    exact ⟨.refl s, .nothing _⟩
  · obtain ⟨⟨b, u⟩, hu, h⟩ := onOk_eq_ok h
    obtain ⟨hinputs, hblk, -⟩ := readCell_eq (hr _ hu)
    cases h
    refine ⟨hinputs, ?_⟩
    rw [respond_blk, hblk]
    exact .nothing _

theorem execDecNext_cases {s t : State} (h : execDecNext s = .next t) :
    SameInputs s t ∧ CommandWrites s.params s.blk .decNext t.blk := by
  unfold execDecNext at h
  split at h
  · cases h
    exact ⟨.refl s, .nothing _⟩
  · next hhold =>
    cases h
    exact ⟨.refl s, .decNext (not_not.1 hhold)⟩

/-- What a command that completes did: its response, and the writes its rule names. -/
theorem exec_cases {i : Instr} {s t : State} (h : exec i s = .next t) :
    SameInputs s t ∧ CommandWrites s.params s.blk i t.blk := by
  cases i with
  | nop | cfg | status | ckRd | encRdcnt | encRdck | decRdck | decRdcnt => cases h; exact ⟨.refl s, .nothing _⟩
  | srst => cases h; exact ⟨.refl s, .srst⟩
  | ckClr => cases h; exact ⟨.refl s, .ckClr⟩
  | ckByte d => cases h; exact ⟨.refl s, .ckByte d⟩
  | encClr => exact execEncClr_cases h
  | encLoad d => exact execEncLoad_cases h
  | encSend => exact execEncSend_cases h
  | encRdbuf k => exact readCommand_cases (fun _ hx => (readTx_eq_ok.1 hx).2) h
  | decNext => exact execDecNext_cases h
  | decAbort => cases h; exact ⟨.refl s, .decAbort⟩
  | decRdbuf k => exact readCommand_cases (fun _ hx => (readRx_eq_ok.1 hx).2) h
  | decClrz => cases h; exact ⟨.refl s, .decClrz⟩

/-! ### The writes of an RXL byte -/

/-- The registers and buffers that the received byte `w` can leave behind (R151), phase by phase. -/
inductive RxlWrites (P : Params) (w : Byte) (b : Block) : Block → Prop where
  | start (hphase : b.decPhase = .hunt) : RxlWrites P w b { b with decPhase := .len }
  | skip (hphase : b.decPhase = .hunt) : RxlWrites P w b b
  | length (hphase : b.decPhase = .len) (hcap : 0 < P.cap) :
      RxlWrites P w b (Block.judgeLength P w (Block.startFrame { b with rx := Memory.write b.rx 0 w } w))
  | escape (hphase : b.decPhase = .data) : RxlWrites P w b { b with decPhase := .esc }
  | payload (v : Byte) (hphase : b.decPhase = .data ∨ b.decPhase = .esc) (hcap : 1 + b.decIdx.toNat < P.cap) :
      RxlWrites P w b (Block.countPayload { b with rx := Memory.write b.rx (1 + b.decIdx.toNat) v } v)
  | firstCk (hphase : b.decPhase = .ck1) (hcap : b.decLen.toNat + 1 < P.cap) :
      RxlWrites P w b { b with rx := Memory.write b.rx (b.decLen.toNat + 1) w, decPhase := .ck2 }
  | lastCk (hi : Byte) (hphase : b.decPhase = .ck2) (hcap : b.decLen.toNat + 2 < P.cap)
      (hread : ∀ v, Memory.read? b.rx (b.decLen.toNat + 1) = some v → hi = v) :
      RxlWrites P w b { b with
        rx := Memory.write b.rx (b.decLen.toNat + 2) w
        decResult := if pack hi w = pack b.decS1 b.decS2 then .ok else .ckfail
        decPhase := .hold }

theorem storePayload_cases {v w : Byte} {s t : State} (hphase : s.blk.decPhase = .data ∨ s.blk.decPhase = .esc)
    (h : storePayload v s = .ok t) : SameInputs s t ∧ RxlWrites s.params w s.blk t.blk := by
  obtain ⟨u, hu, h⟩ := onOk_eq_ok h
  obtain ⟨hcap, rfl⟩ := writeRx_eq_ok.1 hu
  cases h
  exact ⟨.refl s, .payload v hphase hcap⟩

/-- What an RXL step that completes did. -/
theorem rxlByte_cases {w : Byte} {s t : State} (hhold : s.blk.decPhase ≠ .hold) (h : rxlByte w s = .ok t) :
    SameInputs s t ∧ RxlWrites s.params w s.blk t.blk := by
  unfold rxlByte at h
  split at h
  case h_1 hphase =>
    cases h
    split
    · exact ⟨.refl s, .start hphase⟩
    · exact ⟨.refl s, .skip hphase⟩
  case h_2 hphase =>
    obtain ⟨u, hu, h⟩ := onOk_eq_ok h
    obtain ⟨hcap, rfl⟩ := writeRx_eq_ok.1 hu
    cases h
    exact ⟨.refl s, .length hphase hcap⟩
  case h_3 hphase =>
    split at h
    · cases h
      exact ⟨.refl s, .escape hphase⟩
    · exact storePayload_cases (.inl hphase) h
  case h_4 hphase => exact storePayload_cases (.inr hphase) h
  case h_5 hphase =>
    obtain ⟨u, hu, h⟩ := onOk_eq_ok h
    obtain ⟨hcap, rfl⟩ := writeRx_eq_ok.1 hu
    cases h
    exact ⟨.refl s, .firstCk hphase hcap⟩
  case h_6 hphase =>
    obtain ⟨⟨hi, u⟩, hu, h⟩ := onOk_eq_ok h
    obtain ⟨v, hv, h⟩ := onOk_eq_ok h
    obtain ⟨hinputs, hblk, hread⟩ := readCell_eq (readRx_eq_ok.1 hu).2
    obtain ⟨hcap, rfl⟩ := writeRx_eq_ok.1 hv
    cases h
    obtain ⟨hparams, -⟩ := id hinputs
    refine ⟨hinputs, ?_⟩
    simp only [State.withBlk_blk, hblk]
    exact .lastCk hi hphase (hparams ▸ hcap) hread
  case h_7 hphase => exact absurd hphase hhold

/-- What RXL's turn did: nothing, or it handed over its first byte. -/
theorem rxlTurn_cases {s t : State} (h : rxlTurn s = .ok t) :
    t = s ∨ ∃ w rest, s.rstN = true ∧ s.rxq = w :: rest ∧ s.blk.decPhase ≠ .hold ∧
      SameInputs (acceptByte w rest s) t ∧ RxlWrites s.params w s.blk t.blk := by
  by_cases hwait : s.rstN = false ∨ s.blk.decPhase = .hold ∨ s.rxq = []
  · rw [rxlTurn_waits hwait] at h
    cases h
    exact .inl rfl
  · obtain ⟨hrst, hhold, hq⟩ := by simpa only [not_or, Bool.not_eq_false] using hwait
    obtain ⟨w, rest, hq⟩ := List.exists_cons_of_ne_nil hq
    rw [rxlTurn_enabled hrst hhold hq] at h
    exact .inr ⟨w, rest, hrst, hq, hhold, rxlByte_cases hhold h⟩

/-! ### The writes of a TXL byte -/

/-- The byte that a TXL step hands over and the registers it leaves behind (R131), phase by phase. -/
inductive TxlWrites (P : Params) (b : Block) : Byte → Block → Prop where
  | start (hphase : b.encPhase = .start) : TxlWrites P b Config.START { b with encPhase := .len }
  | length (hphase : b.encPhase = .len) : TxlWrites P b b.txlen b.afterLenByte
  | escape (x : Byte) (hphase : b.encPhase = .data)
      (hread : ∀ v, Memory.read? b.tx b.encIdx.toNat = some v → x = v) (htrigger : needsEscape x = true) :
      TxlWrites P b Config.ESC { b with encPhase := .esc2 }
  | plain (x : Byte) (hphase : b.encPhase = .data)
      (hread : ∀ v, Memory.read? b.tx b.encIdx.toNat = some v → x = v) (hplain : needsEscape x = false) :
      TxlWrites P b x b.afterPayloadByte
  | escaped (x : Byte) (hphase : b.encPhase = .esc2)
      (hread : ∀ v, Memory.read? b.tx b.encIdx.toNat = some v → x = v) :
      TxlWrites P b (x ^^^ Config.XMASK) b.afterPayloadByte
  | firstCk (hphase : b.encPhase = .ck1) : TxlWrites P b (hiByte b.encCk) { b with encPhase := .ck2 }
  | lastCk (hphase : b.encPhase = .ck2) : TxlWrites P b (loByte b.encCk) { b with encPhase := .idle }

/-- What a TXL step that completes did. -/
theorem txlStep_cases {s t : State} (hidle : s.blk.encPhase ≠ .idle) (h : txlStep s = .ok t) :
    ∃ x, SameInputs (emit x s) t ∧ TxlWrites s.params s.blk x t.blk := by
  unfold txlStep at h
  split at h
  case h_1 hphase => exact absurd hphase hidle
  case h_2 hphase =>
    cases h
    exact ⟨_, .refl (emit _ s), .start hphase⟩
  case h_3 hphase =>
    cases h
    exact ⟨_, .refl (emit _ s), .length hphase⟩
  case h_4 hphase =>
    obtain ⟨⟨x, u⟩, hu, h⟩ := onOk_eq_ok h
    obtain ⟨hinputs, hblk, hread⟩ := readCell_eq (readTx_eq_ok.1 hu).2
    cases htrigger : needsEscape x with
    | true =>
      simp only [htrigger, if_true, hblk] at h
      cases h
      exact ⟨_, hinputs.emit _ _, .escape x hphase hread htrigger⟩
    | false =>
      simp only [htrigger, Bool.false_eq_true, if_false, hblk] at h
      cases h
      exact ⟨_, hinputs.emit _ _, .plain x hphase hread htrigger⟩
  case h_5 hphase =>
    obtain ⟨⟨x, u⟩, hu, h⟩ := onOk_eq_ok h
    obtain ⟨hinputs, hblk, hread⟩ := readCell_eq (readTx_eq_ok.1 hu).2
    simp only [hblk] at h
    cases h
    exact ⟨_, hinputs.emit _ _, .escaped x hphase hread⟩
  case h_6 hphase =>
    cases h
    exact ⟨_, .refl (emit _ s), .firstCk hphase⟩
  case h_7 hphase =>
    cases h
    exact ⟨_, .refl (emit _ s), .lastCk hphase⟩

/-- What TXL's turn did: nothing, or it took one byte. -/
theorem txlTurn_cases {s t : State} (h : txlTurn s = .ok t) :
    (t = s ∧ (s.rstN = false ∨ s.blk.encPhase = .idle)) ∨
    ∃ x, s.rstN = true ∧ s.blk.encPhase ≠ .idle ∧ SameInputs (emit x s) t ∧ TxlWrites s.params s.blk x t.blk := by
  by_cases hwait : s.rstN = false ∨ s.blk.encPhase = .idle
  · rw [txlTurn_waits hwait] at h
    cases h
    exact .inl ⟨rfl, hwait⟩
  · obtain ⟨hrst, hidle⟩ := by simpa only [not_or, Bool.not_eq_false] using hwait
    rw [txlTurn_enabled hrst hidle] at h
    obtain ⟨x, hframe, hwrites⟩ := txlStep_cases hidle h
    exact .inr ⟨x, hrst, hidle, hframe, hwrites⟩

/-! ### The writes of a step -/

/-- What a step on a turn can do to the block: nothing, a command's writes, a line's writes, or a hard reset. Only a hard
reset acts while `rst_n` is low (R240). -/
inductive StepWrites (s : State) : Turn → Block → Prop where
  | nothing (turn : Turn) (hturn : turn ≠ .rstLow) : StepWrites s turn s.blk
  | command (w : Word) (i : Instr) {b : Block} (hrst : s.rstN = true) (hword : encode i = w)
      (hb : CommandWrites s.params s.blk i b) : StepWrites s (.cmd w) b
  | rxl (w : Byte) (q : List Byte) {b : Block} (hrst : s.rstN = true) (hq : s.rxq = w :: q)
      (hhold : s.blk.decPhase ≠ .hold) (hb : RxlWrites s.params w s.blk b) : StepWrites s .rxl b
  | txl (x : Byte) {b : Block} (hrst : s.rstN = true) (hb : TxlWrites s.params s.blk x b) : StepWrites s .txl b
  | hardReset : StepWrites s .rstLow Block.reset

/-- The input `rst_n` after a turn (R240): the two reset edges alone drive it. -/
def Turn.rstAfter : Turn → Bool → Bool
  | .rstLow, _ => false
  | .rstHigh, _ => true
  | .cmd _, r => r
  | .rxl, r => r
  | .txl, r => r

/-- Adding a command to the observation changes the observation only. -/
theorem logCommand_frame (w : Word) (s : State) : logCommand w s = { s with cmdLog := (logCommand w s).cmdLog } := by
  unfold logCommand; split <;> rfl

theorem mapNext_eq_next {f : State → State} {o : Host.Outcome State Fault Refusal} {t : State}
    (h : mapNext f o = .next t) : ∃ u, o = .next u ∧ f u = t := by
  cases o with
  | next u => exact ⟨u, rfl, by cases h; rfl⟩
  | fault r => cases h
  | refused r => cases h

/-- What HOST's turn did: nothing to the block, or the writes of the command that its word encodes. -/
theorem hostTurn_cases {w : Word} {s t : State} (h : hostTurn w s = .next t) :
    t.sched = s.sched ∧ t.params = s.params ∧ t.rstN = s.rstN ∧ StepWrites s (.cmd w) t.blk := by
  rcases Bool.eq_false_or_eq_true s.rstN with hrst | hrst
  · rw [hostTurn_enabled hrst] at h
    obtain ⟨u, hu, rfl⟩ := mapNext_eq_next h
    rw [logCommand_frame]
    unfold runWord at hu
    split at hu
    · next i hi =>
      obtain ⟨⟨hparams, hrstN, hsched, -⟩, hwrites⟩ := exec_cases hu
      exact ⟨hsched, hparams, hrstN, .command w i hrst (encode_eq_of_decode hi) hwrites⟩
    · cases hu
      exact ⟨rfl, rfl, rfl, .nothing _ (by simp)⟩
  · rw [hostTurn_inReset hrst] at h
    cases h
    exact ⟨rfl, rfl, rfl, .nothing _ (by simp)⟩

/-- Taking the turn off the schedule does not bear on what the turn can write. -/
theorem StepWrites.of_beginStep {s : State} {turn : Turn} {rest : List Turn} {b : Block}
    (h : StepWrites (beginStep rest s) turn b) : StepWrites s turn b := by
  cases h with
  | nothing _ hturn => exact .nothing _ hturn
  | command w i hrst hword hb => exact .command w i hrst hword hb
  | rxl w q hrst hq hhold hb => exact .rxl w q hrst hq hhold hb
  | txl x hrst hb => exact .txl x hrst hb
  | hardReset => exact .hardReset

/-- What a step that completes did: the turn is off the schedule, the capacities stay, `rst_n` follows the turn, and the
block takes one of the writes of `StepWrites`. -/
theorem step_cases {s t : State} {turn : Turn} {rest : List Turn} (hs : s.sched = turn :: rest)
    (h : step s = .next t) :
    t.sched = rest ∧ t.params = s.params ∧ t.rstN = turn.rstAfter s.rstN ∧ StepWrites s turn t.blk := by
  rw [step_turn hs] at h
  cases turn with
  | cmd w =>
    obtain ⟨hsched, hparams, hrst, hwrites⟩ := hostTurn_cases h
    exact ⟨hsched, hparams, hrst, hwrites.of_beginStep⟩
  | rxl =>
    obtain rfl | ⟨w, q, hrst, hq, hhold, ⟨hparams, hrstN, hsched, -⟩, hwrites⟩ := rxlTurn_cases (settle_eq_next h)
    · exact ⟨rfl, rfl, rfl, .nothing _ (by simp)⟩
    · exact ⟨hsched, hparams, hrstN, .rxl w q hrst hq hhold hwrites⟩
  | txl =>
    obtain ⟨rfl, -⟩ | ⟨x, hrst, -, ⟨hparams, hrstN, hsched, -⟩, hwrites⟩ := txlTurn_cases (settle_eq_next h)
    · exact ⟨rfl, rfl, rfl, .nothing _ (by simp)⟩
    · exact ⟨hsched, hparams, hrstN, .txl x hrst hwrites⟩
  | rstLow =>
    cases h
    exact ⟨rfl, rfl, rfl, .hardReset⟩
  | rstHigh =>
    cases h
    exact ⟨rfl, rfl, rfl, .nothing _ (by simp)⟩

end Sys2Proof.Machine
end

section
/-! SUPPORT. The invariant of the block as three parts, one for each unit, and for each part that every write of a step keeps
it. The writes of another unit keep a part because they leave its registers and buffer alone. -/

namespace Sys2Proof.Machine

/-! ### Bytes held by a buffer -/

/-- A write outside a span leaves the span as it was. -/
theorem HoldsAt.write_outside {m : Memory} {i k : Nat} {bs : List Byte} (v : Byte) (h : HoldsAt m i bs)
    (hk : i + bs.length ≤ k) : HoldsAt (Memory.write m k v) i bs := by
  intro j hj
  rw [Memory.read?_write_other _ _ _ _ (by omega)]
  exact h j hj

/-- A write right behind a span extends it by the written byte. -/
theorem HoldsAt.write_append {m : Memory} {i k : Nat} {bs : List Byte} (v : Byte) (h : HoldsAt m i bs)
    (hk : k = i + bs.length) : HoldsAt (Memory.write m k v) i (bs ++ [v]) := by
  subst hk
  intro j hj
  rcases Nat.lt_or_ge j bs.length with hlt | hge
  · rw [List.getElem?_append_left hlt]
    exact h.write_outside v (Nat.le_refl _) j hlt
  · obtain rfl : j = bs.length := by simp at hj; omega
    simp

/-- Bytes that a buffer holds are written bytes. -/
theorem HoldsAt.read? {m : Memory} {bs : List Byte} (h : HoldsAt m 0 bs) {j : Nat} (hj : j < bs.length) :
    ∃ v, Memory.read? m j = some v := by
  have hread := h j hj
  rw [Nat.zero_add, List.getElem?_eq_getElem hj] at hread
  exact ⟨_, hread⟩

/-! ### The checksum sums stay below 255 (R45) -/

theorem flStep_le {s : Byte × Byte} (h1 : s.1.toNat ≤ 254) (h2 : s.2.toNat ≤ 254) (d : Byte) :
    (flStep s d).1.toNat ≤ 254 ∧ (flStep s d).2.toNat ≤ 254 := by
  have hd := d.isLt
  have ha := wrap255_le (s.1.toNat + d.toNat) (by omega)
  have hb := wrap255_le (s.2.toNat + wrap255 (s.1.toNat + d.toNat)) (by omega)
  simp only [flStep, BitVec.toNat_ofNat]
  omega

theorem flFold_le {s : Byte × Byte} (h1 : s.1.toNat ≤ 254) (h2 : s.2.toNat ≤ 254) (bs : List Byte) :
    (flFold s bs).1.toNat ≤ 254 ∧ (flFold s bs).2.toNat ≤ 254 := by
  induction bs generalizing s with
  | nil => exact ⟨h1, h2⟩
  | cons b bs ih =>
    obtain ⟨ha, hb⟩ := flStep_le h1 h2 b
    exact ih ha hb

/-- Both bytes of a checksum are at most 254. -/
theorem fletcher16_le (bs : List Byte) :
    (hiByte (fletcher16 bs)).toNat ≤ 254 ∧ (loByte (fletcher16 bs)).toNat ≤ 254 := by
  simp only [fletcher16, hiByte_pack, loByte_pack]
  exact flFold_le (by decide) (by decide) bs

/-! ### The invariant of each unit -/

/-- Unit CK: the sums are below 255. -/
structure Block.CkInv (b : Block) : Prop where
  ckS1_le : b.ckS1.toNat ≤ 254
  ckS2_le : b.ckS2.toNat ≤ 254

/-- Unit ENC: the invariant's clauses about the TX payload, the position in it and the latched checksum. -/
structure Block.EncInv (P : Params) (b : Block) : Prop where
  encCk_hi_le : (hiByte b.encCk).toNat ≤ 254
  encCk_lo_le : (loByte b.encCk).toNat ≤ 254
  txlen_le : b.txlen.toNat ≤ P.txcap
  encIdx_le : b.encPhase ≠ .idle → b.encIdx.toNat ≤ b.txlen.toNat
  encIdx_le_txcap : b.encIdx.toNat ≤ P.txcap
  tx_wf : Memory.wf b.tx = true
  tx_below : Memory.below P.txcap b.tx = true
  payload_written : ∃ p, HoldsPayload b p
  position : Block.EncOk b

/-- Unit DEC: the bounds of its registers and the form of RX. -/
structure Block.DecBounds (P : Params) (b : Block) : Prop where
  decS1_le : b.decS1.toNat ≤ 254
  decS2_le : b.decS2.toNat ≤ 254
  decIdx_le : b.decIdx.toNat ≤ b.decLen.toNat
  decLen_le : b.decPhase.inFrame = true → b.decLen.toNat ≤ P.lmax
  rx_wf : Memory.wf b.rx = true
  rx_below : Memory.below P.cap b.rx = true

/-- Unit DEC: the bounds, the held outcome, and the position in the received frame. -/
structure Block.DecInv (P : Params) (b : Block) : Prop extends Block.DecBounds P b where
  hold_iff : b.decPhase = .hold ↔ b.decResult ≠ .none
  position : Block.DecOk P b

theorem EncPhase.code_ne_seven (p : EncPhase) : p.code ≠ 7#3 := by cases p <;> decide

theorem DecPhase.code_ne_seven (p : DecPhase) : p.code ≠ 7#3 := by cases p <;> decide

/-- The invariant of the block is the invariant of its three units. -/
theorem Block.inv_iff {P : Params} {b : Block} : Block.Inv P b ↔ b.CkInv ∧ Block.EncInv P b ∧ Block.DecInv P b := by
  constructor
  · rintro ⟨facts, buffers, enc, dec⟩
    exact ⟨⟨facts.ckS1_le, facts.ckS2_le⟩,
      ⟨facts.encCk_hi_le, facts.encCk_lo_le, facts.txlen_le, facts.encIdx_le, facts.encIdx_le_txcap, buffers.tx_wf,
        buffers.tx_below, buffers.payload_written, enc⟩,
      ⟨⟨facts.decS1_le, facts.decS2_le, facts.decIdx_le, facts.decLen_le, buffers.rx_wf, buffers.rx_below⟩,
        facts.hold_iff, dec⟩⟩
  · rintro ⟨ck, enc, dec⟩
    exact ⟨⟨ck.ckS1_le, ck.ckS2_le, dec.decS1_le, dec.decS2_le, enc.encCk_hi_le, enc.encCk_lo_le, enc.txlen_le,
        enc.encIdx_le, enc.encIdx_le_txcap, dec.decIdx_le, dec.decLen_le, dec.hold_iff, b.encPhase.code_ne_seven,
        b.decPhase.code_ne_seven⟩,
      ⟨dec.rx_wf, enc.tx_wf, dec.rx_below, enc.tx_below, enc.payload_written⟩, enc.position, dec.position⟩

/-! ### Each unit's invariant reads that unit's registers and buffer only -/

theorem Block.EncInv.congr {P : Params} {b b' : Block} (h : Block.EncInv P b) (htxlen : b'.txlen = b.txlen)
    (hidx : b'.encIdx = b.encIdx) (hck : b'.encCk = b.encCk) (hphase : b'.encPhase = b.encPhase)
    (htx : b'.tx = b.tx) : Block.EncInv P b' := by
  cases b'
  cases htxlen; cases hidx; cases hck; cases hphase; cases htx
  exact ⟨h.encCk_hi_le, h.encCk_lo_le, h.txlen_le, h.encIdx_le, h.encIdx_le_txcap, h.tx_wf, h.tx_below,
    h.payload_written, h.position.idx_lt, h.position.pending_escape, h.position.latched⟩

theorem Block.DecInv.congr {P : Params} {b b' : Block} (h : Block.DecInv P b) (hphase : b'.decPhase = b.decPhase)
    (hresult : b'.decResult = b.decResult) (hlen : b'.decLen = b.decLen) (hidx : b'.decIdx = b.decIdx)
    (hs1 : b'.decS1 = b.decS1) (hs2 : b'.decS2 = b.decS2) (hrx : b'.rx = b.rx) : Block.DecInv P b' := by
  cases b'
  cases hphase; cases hresult; cases hlen; cases hidx; cases hs1; cases hs2; cases hrx
  exact ⟨⟨h.decS1_le, h.decS2_le, h.decIdx_le, h.decLen_le, h.rx_wf, h.rx_below⟩, h.hold_iff, h.position.stored,
    h.position.idx_lt, h.position.idx_eq, h.position.ck1_stored, h.position.held_frame, h.position.held_overflow⟩

/-! ### Reset values -/

/-- An idle encoder with no payload meets its invariant, whatever was sent before and whatever TX still holds. -/
theorem Block.EncInv.of_idle_empty {P : Params} {b : Block} (hidle : b.encPhase = .idle) (htxlen : b.txlen = 0x00#8)
    (hck : (hiByte b.encCk).toNat ≤ 254 ∧ (loByte b.encCk).toNat ≤ 254) (hidx : b.encIdx.toNat ≤ P.txcap)
    (hwf : Memory.wf b.tx = true) (hbelow : Memory.below P.txcap b.tx = true) : Block.EncInv P b where
  encCk_hi_le := hck.1
  encCk_lo_le := hck.2
  txlen_le := by simp [htxlen]
  encIdx_le hbusy := absurd hidle hbusy
  encIdx_le_txcap := hidx
  tx_wf := hwf
  tx_below := hbelow
  payload_written := ⟨[], by simp [htxlen], fun _ hj => absurd hj (Nat.not_lt_zero _)⟩
  position := ⟨by simp [hidle], by simp [hidle], fun _ hbusy => absurd hidle hbusy⟩

/-- A decoder in HUNT or LEN with no result has no frame to speak of: the bounds of its registers are its invariant. -/
theorem Block.DecInv.of_no_frame {P : Params} {b : Block} (hphase : b.decPhase = .hunt ∨ b.decPhase = .len)
    (hresult : b.decResult = .none) (hsums : b.decS1.toNat ≤ 254 ∧ b.decS2.toNat ≤ 254)
    (hidx : b.decIdx.toNat ≤ b.decLen.toNat) (hwf : Memory.wf b.rx = true)
    (hbelow : Memory.below P.cap b.rx = true) : Block.DecInv P b := by
  have hout : b.decPhase.inFrame = false ∧ b.decPhase ≠ .hold := by
    rcases hphase with hphase | hphase <;> simp [hphase, DecPhase.inFrame]
  obtain ⟨hframe, hhold⟩ := hout
  exact {
    decS1_le := hsums.1
    decS2_le := hsums.2
    decIdx_le := hidx
    decLen_le := by simp [hframe]
    hold_iff := by simp [hhold, hresult]
    rx_wf := hwf
    rx_below := hbelow
    position := {
      stored := by simp [hframe, hhold]
      idx_lt := by rcases hphase with hphase | hphase <;> simp [hphase]
      idx_eq := by rcases hphase with hphase | hphase <;> simp [hphase]
      ck1_stored := by rcases hphase with hphase | hphase <;> simp [hphase]
      held_frame := by simp [hresult]
      held_overflow := by simp [hresult] } }

/-- The registers after a hard reset meet the invariant, at every capacity. -/
theorem Block.inv_reset (P : Params) : Block.Inv P Block.reset :=
  Block.inv_iff.2 ⟨⟨by decide, by decide⟩,
    .of_idle_empty rfl rfl (by decide) (Nat.zero_le _) rfl rfl,
    .of_no_frame (.inl rfl) rfl (by decide) (by decide) rfl rfl⟩

/-! ### Unit CK -/

/-- Every command keeps the sums of CK below 255: its own commands set them to 0 or add a byte. -/
theorem CommandWrites.keeps_ckInv {P : Params} {b b' : Block} {i : Instr} (h : CommandWrites P b i b')
    (hinv : b.CkInv) : b'.CkInv := by
  cases h with
  | ckByte d =>
    obtain ⟨h1, h2⟩ := flStep_le (s := b.ckSums) hinv.ckS1_le hinv.ckS2_le d
    exact ⟨h1, h2⟩
  | srst | ckClr => exact ⟨Nat.zero_le _, Nat.zero_le _⟩
  | nothing | encClr | encLoad | encSend | decNext | decAbort | decClrz => exact ⟨hinv.ckS1_le, hinv.ckS2_le⟩

/-- A line step leaves CK alone (R109). -/
theorem RxlWrites.ck_eq {P : Params} {w : Byte} {b b' : Block} (h : RxlWrites P w b b') : SameCk b b' := by
  cases h <;> simp [SameCk]

theorem TxlWrites.ck_eq {P : Params} {x : Byte} {b b' : Block} (h : TxlWrites P b x b') : SameCk b b' := by
  cases h <;> simp [SameCk]

theorem Block.CkInv.congr {b b' : Block} (h : b.CkInv) (hsame : SameCk b b') : b'.CkInv := by
  obtain ⟨h1, h2⟩ := hsame
  exact ⟨h1 ▸ h.ckS1_le, h2 ▸ h.ckS2_le⟩

/-! ### Unit ENC -/

/-- A counter below 255 counts up without a wrap. -/
theorem toNat_add_one {c : Byte} (h : c.toNat < 255) : (c + 1#8).toNat = c.toNat + 1 := by
  rw [BitVec.toNat_add]
  exact Nat.mod_eq_of_lt (Nat.succ_lt_succ h)

/-- Loading a byte behind the payload appends it to the payload. -/
theorem HoldsPayload.load {b : Block} {p : List Byte} (h : HoldsPayload b p) (d : Byte) (hlt : b.txlen.toNat < 255) :
    HoldsPayload { b with tx := Memory.write b.tx b.txlen.toNat d, txlen := b.txlen + 1#8 } (p ++ [d]) := by
  obtain ⟨hlen, hbytes⟩ := h
  refine ⟨?_, hbytes.write_append d (by omega)⟩
  rw [toNat_add_one hlt, hlen, List.length_append, List.length_singleton]

/-- The length byte of the payload in TX is `txlen` (R122). -/
theorem lenByte_of_holdsPayload {b : Block} {p : List Byte} (h : HoldsPayload b p) : lenByte p = b.txlen := by
  rw [lenByte, ← h.1, BitVec.ofNat_toNat, BitVec.setWidth_eq]

/-- The payload byte at an index below `txlen` was written. -/
theorem Block.EncInv.payload_byte {P : Params} {b : Block} (h : Block.EncInv P b) {i : Nat} (hi : i < b.txlen.toNat) :
    ∃ v, Memory.read? b.tx i = some v := by
  obtain ⟨p, hlen, hbytes⟩ := h.payload_written
  exact hbytes.read? (hlen ▸ hi)

theorem Params.wf_iff {P : Params} :
    P.wf = true ↔ 4 ≤ P.cap ∧ P.cap ≤ 256 ∧ 1 ≤ P.txcap ∧ P.txcap ≤ 255 := by
  simp [Params.wf, and_assoc]

/-- ENC_LOAD keeps the encoder's invariant: the loaded byte is written and counted at once. -/
theorem Block.EncInv.encLoad {P : Params} {b : Block} (hwf : P.wf = true) (h : Block.EncInv P b) (d : Byte)
    (hidle : b.encPhase = .idle) (hroom : b.txlen.toNat < P.txcap) :
    Block.EncInv P { b with tx := Memory.write b.tx b.txlen.toNat d, txlen := b.txlen + 1#8 } := by
  obtain ⟨-, -, -, htxcap⟩ := Params.wf_iff.1 hwf
  obtain ⟨p, hp⟩ := h.payload_written
  exact {
    encCk_hi_le := h.encCk_hi_le
    encCk_lo_le := h.encCk_lo_le
    txlen_le := by rw [toNat_add_one (by omega)]; omega
    encIdx_le := fun hbusy => absurd hidle hbusy
    encIdx_le_txcap := h.encIdx_le_txcap
    tx_wf := Memory.wf_write _ _ _ h.tx_wf
    tx_below := Memory.below_write _ _ _ _ hroom h.tx_below
    payload_written := ⟨p ++ [d], hp.load d (by omega)⟩
    position := ⟨by simp [hidle], by simp [hidle], fun _ hbusy => absurd hidle hbusy⟩ }

/-- ENC_SEND keeps the encoder's invariant: the bytes it read are the payload, so it latches the frame's checksum. -/
theorem Block.EncInv.encSend {P : Params} {b : Block} (h : Block.EncInv P b) (bs : List Byte)
    (hread : ∀ p, HoldsPayload b p → p.length ≤ P.txcap → bs = p) :
    Block.EncInv P { b with encCk := fletcher16 (b.txlen :: bs), encIdx := 0x00#8, encPhase := .start } where
  encCk_hi_le := (fletcher16_le _).1
  encCk_lo_le := (fletcher16_le _).2
  txlen_le := h.txlen_le
  encIdx_le _ := Nat.zero_le _
  encIdx_le_txcap := Nat.zero_le _
  tx_wf := h.tx_wf
  tx_below := h.tx_below
  payload_written := h.payload_written
  position := by
    refine ⟨by simp, by simp, fun p _ hp => ?_⟩
    have hp : HoldsPayload b p := hp
    rw [hread p hp (hp.1 ▸ h.txlen_le), frameCk, lenByte_of_holdsPayload hp]

/-- The encoder's invariant after a TXL step: the payload and the latched checksum stay, and only what is said of the
position is new. -/
theorem Block.EncInv.at_position {P : Params} {b : Block} (h : Block.EncInv P b) (hbusy : b.encPhase ≠ .idle)
    (idx : Byte) (phase : EncPhase) (hle : idx.toNat ≤ b.txlen.toNat)
    (hlt : phase = .data ∨ phase = .esc2 → idx.toNat < b.txlen.toNat)
    (hpending : phase = .esc2 → ∃ v, Memory.read? b.tx idx.toNat = some v ∧ needsEscape v = true) :
    Block.EncInv P { b with encIdx := idx, encPhase := phase } where
  encCk_hi_le := h.encCk_hi_le
  encCk_lo_le := h.encCk_lo_le
  txlen_le := h.txlen_le
  encIdx_le _ := hle
  encIdx_le_txcap := Nat.le_trans hle h.txlen_le
  tx_wf := h.tx_wf
  tx_below := h.tx_below
  payload_written := h.payload_written
  position := ⟨hlt, hpending, fun p _ hp => h.position.latched p hbusy hp⟩

/-- A payload byte gone out whole: the index moves on by one, to CK1 exactly at the end of the payload. -/
theorem Block.EncInv.afterPayloadByte {P : Params} {b : Block} (h : Block.EncInv P b)
    (hphase : b.encPhase = .data ∨ b.encPhase = .esc2) : Block.EncInv P b.afterPayloadByte := by
  have hlt := h.position.idx_lt hphase
  have hbound := b.txlen.isLt
  have hidx : (b.encIdx + 1#8).toNat = b.encIdx.toNat + 1 := toNat_add_one (by omega)
  refine h.at_position (by rcases hphase with h | h <;> simp [h]) _ _ (by omega) ?_ ?_
  · split
    · simp
    · exact fun _ => by omega
  · split <;> simp

/-- Every TXL step keeps the encoder's invariant. -/
theorem TxlWrites.keeps_encInv {P : Params} {x : Byte} {b b' : Block} (h : TxlWrites P b x b')
    (hinv : Block.EncInv P b) : Block.EncInv P b' := by
  cases h with
  | start hphase | firstCk hphase | lastCk hphase =>
    exact hinv.at_position (by simp [hphase]) _ _ (hinv.encIdx_le (by simp [hphase])) (by simp) (by simp)
  | length hphase =>
    refine hinv.at_position (by simp [hphase]) _ _ (Nat.zero_le _) ?_ ?_
    · split
      · simp
      · next hne => exact fun _ => Nat.pos_of_ne_zero fun h0 => hne (BitVec.eq_of_toNat_eq h0)
    · split <;> simp
  | escape x hphase hread htrigger =>
    have hlt := hinv.position.idx_lt (.inl hphase)
    obtain ⟨v, hv⟩ := hinv.payload_byte hlt
    have hpending : ∃ v, Memory.read? b.tx b.encIdx.toNat = some v ∧ needsEscape v = true :=
      ⟨v, hv, hread v hv ▸ htrigger⟩
    exact hinv.at_position (by simp [hphase]) _ _ (Nat.le_of_lt hlt) (fun _ => hlt) (fun _ => hpending)
  | plain _ hphase => exact hinv.afterPayloadByte (.inl hphase)
  | escaped _ hphase => exact hinv.afterPayloadByte (.inr hphase)

/-- Every command keeps the encoder's invariant. -/
theorem CommandWrites.keeps_encInv {P : Params} {b b' : Block} {i : Instr} (hwf : P.wf = true)
    (h : CommandWrites P b i b') (hinv : Block.EncInv P b) : Block.EncInv P b' := by
  cases h with
  | srst => exact .of_idle_empty rfl rfl (by simp; decide) (Nat.zero_le _) hinv.tx_wf hinv.tx_below
  | encClr hidle =>
    exact .of_idle_empty hidle rfl ⟨hinv.encCk_hi_le, hinv.encCk_lo_le⟩ hinv.encIdx_le_txcap hinv.tx_wf hinv.tx_below
  | encLoad d hidle hroom => exact hinv.encLoad hwf d hidle hroom
  | encSend bs _ hread => exact hinv.encSend bs hread
  | nothing => exact hinv
  | ckClr | ckByte | decNext | decAbort | decClrz => exact hinv.congr rfl rfl rfl rfl rfl

/-- An RXL step leaves the encoder's registers and buffer alone. -/
theorem RxlWrites.keeps_encInv {P Q : Params} {w : Byte} {b b' : Block} (h : RxlWrites Q w b b')
    (hinv : Block.EncInv P b) : Block.EncInv P b' := by
  cases h <;> exact hinv.congr (by simp) (by simp) (by simp) (by simp) (by simp)

/-! ### Unit DEC -/

/-- The decoder back in HUNT by DEC_NEXT or DEC_ABORT: the registers keep their bounds. -/
theorem Block.DecInv.toHunt {P : Params} {b : Block} (h : Block.DecInv P b) : Block.DecInv P b.toHunt :=
  .of_no_frame (.inl rfl) rfl ⟨h.decS1_le, h.decS2_le⟩ h.decIdx_le h.rx_wf h.rx_below

/-- Every command keeps the decoder's invariant. -/
theorem CommandWrites.keeps_decInv {P Q : Params} {b b' : Block} {i : Instr} (h : CommandWrites Q b i b')
    (hinv : Block.DecInv P b) : Block.DecInv P b' := by
  cases h with
  | srst => exact .of_no_frame (.inl rfl) rfl (by simp) (by simp) hinv.rx_wf hinv.rx_below
  | decNext | decAbort => exact hinv.toHunt
  | nothing => exact hinv
  | ckClr | ckByte | encClr | encLoad | encSend | decClrz => exact hinv.congr rfl rfl rfl rfl rfl rfl rfl

/-- A TXL step leaves the decoder's registers and buffer alone. -/
theorem TxlWrites.keeps_decInv {P Q : Params} {x : Byte} {b b' : Block} (h : TxlWrites Q b x b')
    (hinv : Block.DecInv P b) : Block.DecInv P b' := by
  cases h <;> exact hinv.congr rfl rfl rfl rfl rfl rfl rfl

/-- A decoder outside HOLD has no result. -/
theorem Block.DecInv.result_none {P : Params} {b : Block} (h : Block.DecInv P b) (hhold : b.decPhase ≠ .hold) :
    b.decResult = .none := by
  simpa [hhold] using h.hold_iff

/-- A decoder inside a frame: the bounds, the frame stored so far, and its place in the frame are its invariant. -/
theorem Block.DecInv.of_inFrame {P : Params} {b : Block} (hphase : b.decPhase.inFrame = true)
    (hresult : b.decResult = .none) (hbounds : Block.DecBounds P b) (hstored : b.FrameStored)
    (hlt : b.decPhase = .data ∨ b.decPhase = .esc → b.decIdx.toNat < b.decLen.toNat)
    (heq : b.decPhase = .ck1 ∨ b.decPhase = .ck2 → b.decIdx = b.decLen)
    (hck1 : b.decPhase = .ck2 → ∃ hi, Memory.read? b.rx (b.decLen.toNat + 1) = some hi) : Block.DecInv P b where
  toDecBounds := hbounds
  hold_iff := by
    have hhold : b.decPhase ≠ .hold := by rintro h; simp [h, DecPhase.inFrame] at hphase
    simp [hhold, hresult]
  position := ⟨fun _ => hstored, hlt, heq, hck1, by simp [hresult], by simp [hresult]⟩

/-- A decoder that holds an outcome: the bounds, the stored frame and what the outcome says are its invariant. -/
theorem Block.DecInv.of_held {P : Params} {b : Block} (hphase : b.decPhase = .hold) (hresult : b.decResult ≠ .none)
    (hbounds : Block.DecBounds P b) (hstored : b.FrameStored)
    (hframe : b.decResult = .ok ∨ b.decResult = .ckfail →
      b.decIdx = b.decLen ∧ b.decLen.toNat ≤ P.lmax ∧
      ∃ hi lo, Memory.read? b.rx (b.decLen.toNat + 1) = some hi ∧ Memory.read? b.rx (b.decLen.toNat + 2) = some lo ∧
        (b.decResult = .ok ↔ pack hi lo = pack b.decS1 b.decS2))
    (hoverflow : b.decResult = .lenovf → b.decIdx = 0x00#8 ∧ P.lmax < b.decLen.toNat) : Block.DecInv P b where
  toDecBounds := hbounds
  hold_iff := by simp [hphase, hresult]
  position := ⟨fun _ => hstored, by simp [hphase], by simp [hphase], by simp [hphase], hframe, hoverflow⟩

/-- A stored length byte starts a frame: RX holds it, and the sums are those of it alone (R153). -/
theorem Block.frameStored_startFrame (b : Block) (w : Byte) :
    (Block.startFrame { b with rx := Memory.write b.rx 0 w } w).FrameStored := by
  have hempty : HoldsAt b.rx 0 [] := fun _ hj => absurd hj (Nat.not_lt_zero _)
  exact ⟨[], rfl, hempty.write_append w rfl, rfl⟩

/-- A stored payload byte extends the stored frame, and the sums take it (R157, R159). -/
theorem Block.FrameStored.countPayload {b : Block} (h : b.FrameStored) (v : Byte) (hlt : b.decIdx.toNat < 255) :
    (Block.countPayload { b with rx := Memory.write b.rx (1 + b.decIdx.toNat) v } v).FrameStored := by
  obtain ⟨p, hlen, hbytes, hsums⟩ := h
  refine ⟨p ++ [v], ?_, ?_, ?_⟩
  · simp [toNat_add_one hlt, hlen]
  · exact hbytes.write_append v (by simp [hlen, Nat.add_comm])
  · rw [countPayload_decLen, ← List.cons_append, flFold_append, ← hsums]
    rfl

/-- A byte stored behind the payload leaves the stored frame as it is. -/
theorem Block.FrameStored.write_behind {b b' : Block} (h : b.FrameStored) (k : Nat) (v : Byte)
    (hk : b.decIdx.toNat + 1 ≤ k) (hrx : b'.rx = Memory.write b.rx k v) (hidx : b'.decIdx = b.decIdx)
    (hlen : b'.decLen = b.decLen) (hs1 : b'.decS1 = b.decS1) (hs2 : b'.decS2 = b.decS2) : b'.FrameStored := by
  obtain ⟨p, hplen, hbytes, hsums⟩ := h
  refine ⟨p, by rw [hplen, hidx], ?_, by rw [hs1, hs2, hsums, hlen]⟩
  rw [hrx, hlen]
  exact hbytes.write_outside v (by simp [hplen, hk])

/-- The length byte taken: back to HUNT on zero, held on an overflow, into the payload otherwise (R153 to R156). -/
theorem Block.DecInv.judgeLength {P : Params} {b : Block} (h : Block.DecInv P b) (w : Byte)
    (hphase : b.decPhase = .len) (hcap : 0 < P.cap) :
    Block.DecInv P (Block.judgeLength P w (Block.startFrame { b with rx := Memory.write b.rx 0 w } w)) := by
  have hnone := h.result_none (by simp [hphase])
  have hsums := flStep_le (s := (0x00#8, 0x00#8)) (Nat.zero_le _) (Nat.zero_le _) w
  have hwf := Memory.wf_write b.rx 0 w h.rx_wf
  have hbelow := Memory.below_write P.cap b.rx 0 w hcap h.rx_below
  have hstored := Block.frameStored_startFrame b w
  unfold Block.judgeLength
  split
  · exact .of_no_frame (.inl rfl) hnone hsums (Nat.zero_le _) hwf hbelow
  · split
    · next hover =>
      exact .of_held rfl (by simp) ⟨hsums.1, hsums.2, Nat.zero_le _, by simp [DecPhase.inFrame], hwf, hbelow⟩ hstored
        (by simp) fun _ => ⟨rfl, hover⟩
    · next hne hle =>
      have hpos : 0 < w.toNat := Nat.pos_of_ne_zero fun h0 => hne (BitVec.eq_of_toNat_eq h0)
      exact .of_inFrame rfl hnone ⟨hsums.1, hsums.2, Nat.zero_le _, fun _ => Nat.not_lt.1 hle, hwf, hbelow⟩ hstored
        (fun _ => hpos) (by simp) (by simp)

/-- A payload byte taken: it is stored behind the frame so far, and CK1 follows exactly the last one (R157, R159). -/
theorem Block.DecInv.countPayload {P : Params} {b : Block} (h : Block.DecInv P b) (v : Byte)
    (hphase : b.decPhase = .data ∨ b.decPhase = .esc) (hcap : 1 + b.decIdx.toNat < P.cap) :
    Block.DecInv P (Block.countPayload { b with rx := Memory.write b.rx (1 + b.decIdx.toNat) v } v) := by
  obtain ⟨hframe, hhold⟩ : b.decPhase.inFrame = true ∧ b.decPhase ≠ .hold := by
    rcases hphase with hphase | hphase <;> simp [hphase, DecPhase.inFrame]
  have hlt := h.position.idx_lt hphase
  have hbound := b.decLen.isLt
  have hidx : (b.decIdx + 1#8).toNat = b.decIdx.toNat + 1 := toNat_add_one (by omega)
  have hstored := (h.position.stored (.inl hframe)).countPayload v (by omega)
  obtain ⟨hs1, hs2⟩ := flStep_le (s := b.decSums) h.decS1_le h.decS2_le v
  have hbounds : Block.DecBounds P (Block.countPayload { b with rx := Memory.write b.rx (1 + b.decIdx.toNat) v } v) :=
    ⟨hs1, hs2, by simp only [countPayload_decIdx, countPayload_decLen]; omega, fun _ => h.decLen_le hframe,
      Memory.wf_write _ _ _ h.rx_wf, Memory.below_write _ _ _ _ hcap h.rx_below⟩
  have hphase' := countPayload_decPhase { b with rx := Memory.write b.rx (1 + b.decIdx.toNat) v } v
  by_cases hlast : b.decIdx.toNat + 1 = b.decLen.toNat
  · rw [if_pos hlast] at hphase'
    exact .of_inFrame (by rw [hphase']; rfl) (h.result_none hhold) hbounds hstored (by rw [hphase']; simp)
      (fun _ => BitVec.eq_of_toNat_eq (hidx.trans hlast)) (by rw [hphase']; simp)
  · rw [if_neg hlast] at hphase'
    refine .of_inFrame (by rw [hphase']; rfl) (h.result_none hhold) hbounds hstored (fun _ => ?_)
      (by rw [hphase']; simp) (by rw [hphase']; simp)
    rw [countPayload_decIdx, hidx]
    exact Nat.lt_of_le_of_ne hlt hlast

/-- The first checksum byte taken (R160). -/
theorem Block.DecInv.firstCk {P : Params} {b : Block} (h : Block.DecInv P b) (w : Byte) (hphase : b.decPhase = .ck1)
    (hcap : b.decLen.toNat + 1 < P.cap) :
    Block.DecInv P { b with rx := Memory.write b.rx (b.decLen.toNat + 1) w, decPhase := .ck2 } := by
  have hframe : b.decPhase.inFrame = true := by simp [hphase, DecPhase.inFrame]
  exact .of_inFrame rfl (h.result_none (by simp [hphase]))
    ⟨h.decS1_le, h.decS2_le, h.decIdx_le, fun _ => h.decLen_le hframe, Memory.wf_write _ _ _ h.rx_wf,
      Memory.below_write _ _ _ _ hcap h.rx_below⟩
    ((h.position.stored (.inl hframe)).write_behind _ w (Nat.succ_le_succ h.decIdx_le) rfl rfl rfl rfl rfl)
    (by simp) (fun _ => h.position.idx_eq (.inl hphase)) (fun _ => ⟨w, Memory.read?_write_same _ _ _⟩)

/-- The second checksum byte taken: the outcome is OK exactly when both bytes are those of the sums (R161). -/
theorem Block.DecInv.lastCk {P : Params} {b : Block} (h : Block.DecInv P b) (w hi : Byte) (hphase : b.decPhase = .ck2)
    (hcap : b.decLen.toNat + 2 < P.cap)
    (hread : ∀ v, Memory.read? b.rx (b.decLen.toNat + 1) = some v → hi = v) :
    Block.DecInv P { b with
      rx := Memory.write b.rx (b.decLen.toNat + 2) w
      decResult := if pack hi w = pack b.decS1 b.decS2 then .ok else .ckfail
      decPhase := .hold } := by
  have hframe : b.decPhase.inFrame = true := by simp [hphase, DecPhase.inFrame]
  obtain ⟨v, hv⟩ := h.position.ck1_stored hphase
  obtain rfl := hread v hv
  refine .of_held rfl (by simp only; split <;> simp)
    ⟨h.decS1_le, h.decS2_le, h.decIdx_le, by simp [DecPhase.inFrame], Memory.wf_write _ _ _ h.rx_wf,
      Memory.below_write _ _ _ _ hcap h.rx_below⟩
    ((h.position.stored (.inl hframe)).write_behind _ w (by have := h.decIdx_le; omega) rfl rfl rfl rfl rfl)
    (fun _ => ⟨h.position.idx_eq (.inr hphase), h.decLen_le hframe, hi, w, ?_, Memory.read?_write_same _ _ _, ?_⟩)
    (by simp only; split <;> simp)
  · rw [Memory.read?_write_other _ _ _ _ (Nat.ne_of_lt (Nat.lt_succ_self _)), hv]
  · simp only; split <;> simp_all

/-- Every RXL step keeps the decoder's invariant. -/
theorem RxlWrites.keeps_decInv {P : Params} {w : Byte} {b b' : Block} (h : RxlWrites P w b b')
    (hinv : Block.DecInv P b) : Block.DecInv P b' := by
  cases h with
  | start hphase =>
    exact .of_no_frame (.inr rfl) (hinv.result_none (by simp [hphase])) ⟨hinv.decS1_le, hinv.decS2_le⟩ hinv.decIdx_le
      hinv.rx_wf hinv.rx_below
  | skip hphase => exact hinv
  | length hphase hcap => exact hinv.judgeLength w hphase hcap
  | escape hphase =>
    have hframe : b.decPhase.inFrame = true := by simp [hphase, DecPhase.inFrame]
    exact .of_inFrame rfl (hinv.result_none (by simp [hphase]))
      ⟨hinv.decS1_le, hinv.decS2_le, hinv.decIdx_le, fun _ => hinv.decLen_le hframe, hinv.rx_wf, hinv.rx_below⟩
      (hinv.position.stored (.inl hframe)) (fun _ => hinv.position.idx_lt (.inl hphase)) (by simp) (by simp)
  | payload v hphase hcap => exact hinv.countPayload v hphase hcap
  | firstCk hphase hcap => exact hinv.firstCk w hphase hcap
  | lastCk hi hphase hcap hread => exact hinv.lastCk w hi hphase hcap hread

/-! ### The whole block and the machine -/

/-- Every write of a step keeps the block's invariant. -/
theorem StepWrites.keeps_inv {s : State} {turn : Turn} {b : Block} (hwf : s.params.wf = true)
    (h : StepWrites s turn b) (hinv : Block.Inv s.params s.blk) : Block.Inv s.params b := by
  obtain ⟨hck, henc, hdec⟩ := Block.inv_iff.1 hinv
  cases h with
  | nothing => exact hinv
  | command w i _ _ hb => exact Block.inv_iff.2 ⟨hb.keeps_ckInv hck, hb.keeps_encInv hwf henc, hb.keeps_decInv hdec⟩
  | rxl w q _ _ _ hb => exact Block.inv_iff.2 ⟨hck.congr hb.ck_eq, hb.keeps_encInv henc, hb.keeps_decInv hdec⟩
  | txl x _ hb => exact Block.inv_iff.2 ⟨hck.congr hb.ck_eq, hb.keeps_encInv henc, hb.keeps_decInv hdec⟩
  | hardReset => exact Block.inv_reset _

/-- While `rst_n` stays low the registers stay at their reset values (R240). -/
theorem StepWrites.blk_inReset {s : State} {turn : Turn} {b : Block} (h : StepWrites s turn b)
    (hreset : s.rstN = false → s.blk = Block.reset) (hrst : turn.rstAfter s.rstN = false) : b = Block.reset := by
  cases h with
  | nothing _ hturn =>
    cases turn with
    | rstLow => exact absurd rfl hturn
    | rstHigh => cases hrst
    | cmd | rxl | txl => exact hreset hrst
  | command _ _ htrue | rxl _ _ htrue | txl _ htrue => exact absurd (htrue.symm.trans hrst) (by simp)
  | hardReset => rfl

/-- Settles O54: each unit keeps its part of the invariant over every write that `step_cases` lists. -/
theorem stepKeepsInv : Obligations.StepKeepsInv := by
  intro s t hinv h
  cases hs : s.sched with
  | nil =>
    rw [step_idle hs] at h
    cases h
    exact ⟨hinv.params_wf, hinv.block, hinv.in_reset⟩
  | cons turn rest =>
    obtain ⟨-, hparams, hrst, hwrites⟩ := step_cases hs h
    refine ⟨hparams ▸ hinv.params_wf, hparams ▸ hwrites.keeps_inv hinv.params_wf hinv.block, fun hlow => ?_⟩
    exact hwrites.blk_inReset hinv.in_reset (hrst ▸ hlow)

end Sys2Proof.Machine
end

section
/-! SUPPORT. The frames of the three units: what a command, an RXL byte and a TXL byte leave unchanged. The statements about
single steps are read off them. -/

namespace Sys2Proof.Machine

/-! ### What a command leaves unchanged -/

theorem CommandWrites.sameCk {P : Params} {b b' : Block} {i : Instr} (h : CommandWrites P b i b') (hsrst : i ≠ .srst)
    (hclr : i ≠ .ckClr) (hbyte : ∀ d, i ≠ .ckByte d) : SameCk b b' := by
  cases h with
  | srst => exact absurd rfl hsrst
  | ckClr => exact absurd rfl hclr
  | ckByte d => exact absurd rfl (hbyte d)
  | nothing | encClr | encLoad | encSend | decNext | decAbort | decClrz => exact ⟨rfl, rfl⟩

theorem CommandWrites.sameEnc {P : Params} {b b' : Block} {i : Instr} (h : CommandWrites P b i b') (hsrst : i ≠ .srst)
    (hclr : i ≠ .encClr) (hsend : i ≠ .encSend) (hload : ∀ d, i ≠ .encLoad d) : SameEnc b b' := by
  cases h with
  | srst => exact absurd rfl hsrst
  | encClr => exact absurd rfl hclr
  | encSend => exact absurd rfl hsend
  | encLoad d => exact absurd rfl (hload d)
  | nothing | ckClr | ckByte | decNext | decAbort | decClrz => exact ⟨rfl, rfl, rfl, rfl, fun _ => rfl⟩

theorem CommandWrites.sameDecFrame {P : Params} {b b' : Block} {i : Instr} (h : CommandWrites P b i b')
    (hsrst : i ≠ .srst) (hnext : i ≠ .decNext) (habort : i ≠ .decAbort) : SameDecFrame b b' := by
  cases h with
  | srst => exact absurd rfl hsrst
  | decNext => exact absurd rfl hnext
  | decAbort => exact absurd rfl habort
  | nothing | ckClr | ckByte | encClr | encLoad | encSend | decClrz =>
    exact ⟨rfl, rfl, rfl, rfl, rfl, rfl, fun _ => rfl⟩

/-- A command keeps `zlen`, or it is one of the two that clear it (R42). -/
theorem CommandWrites.zlen_cases {P : Params} {b b' : Block} {i : Instr} (h : CommandWrites P b i b') :
    b'.zlen = b.zlen ∨ b'.zlen = false ∧ (i = .srst ∨ i = .decClrz) := by
  cases h with
  | srst => exact .inr ⟨rfl, .inl rfl⟩
  | decClrz => exact .inr ⟨rfl, .inr rfl⟩
  | nothing | ckClr | ckByte | encClr | encLoad | encSend | decNext | decAbort => exact .inl rfl

/-- Settles O12: the frame of each unit, over the writes that a command can make. -/
theorem commandsWriteTheirUnitOnly : Obligations.CommandsWriteTheirUnitOnly := by
  intro i s t h
  obtain ⟨hinputs, hwrites⟩ := exec_cases h
  refine ⟨hinputs, hwrites.sameCk, hwrites.sameEnc, hwrites.sameDecFrame, fun hsrst hclrz => ?_⟩
  obtain hsame | ⟨-, rfl | rfl⟩ := hwrites.zlen_cases
  · exact hsame
  · exact absurd rfl hsrst
  · exact absurd rfl hclrz

/-! ### What a line byte leaves unchanged -/

theorem RxlWrites.sameEnc {P : Params} {w : Byte} {b b' : Block} (h : RxlWrites P w b b') : SameEnc b b' := by
  cases h <;> simp [SameEnc]

@[simp] theorem Block.judgeLength_zlen (P : Params) (w : Byte) (b : Block) :
    (Block.judgeLength P w b).zlen = if w = 0x00#8 then true else b.zlen := by
  unfold Block.judgeLength
  split
  · rfl
  · split <;> rfl

/-- A received byte keeps `zlen`, or it is a zero length byte, which sets it (R42, R155). -/
theorem RxlWrites.zlen_cases {P : Params} {w : Byte} {b b' : Block} (h : RxlWrites P w b b') :
    b'.zlen = b.zlen ∨ b'.zlen = true ∧ b.decPhase = .len ∧ w = 0x00#8 := by
  cases h with
  | length hphase =>
    rw [Block.judgeLength_zlen]
    split
    · next hzero => exact .inr ⟨rfl, hphase, hzero⟩
    · exact .inl rfl
  | start | skip | escape | payload | firstCk | lastCk => exact .inl rfl

/-- A TXL step writes `enc_phase` and `enc_idx` only (R131). -/
theorem TxlWrites.blk_eq {P : Params} {x : Byte} {b b' : Block} (h : TxlWrites P b x b') :
    b' = { b with encPhase := b'.encPhase, encIdx := b'.encIdx } := by
  cases h <;> rfl

theorem TxlWrites.sameDec {P : Params} {x : Byte} {b b' : Block} (h : TxlWrites P b x b') : SameDec b b' := by
  rw [h.blk_eq]
  exact ⟨⟨rfl, rfl, rfl, rfl, rfl, rfl, fun _ => rfl⟩, rfl⟩

theorem SameCk.refl (b : Block) : SameCk b b := ⟨rfl, rfl⟩

theorem SameEnc.refl (b : Block) : SameEnc b b := ⟨rfl, rfl, rfl, rfl, fun _ => rfl⟩

theorem SameDecFrame.refl (b : Block) : SameDecFrame b b := ⟨rfl, rfl, rfl, rfl, rfl, rfl, fun _ => rfl⟩

theorem SameDec.refl (b : Block) : SameDec b b := ⟨.refl b, rfl⟩

/-- Settles O58: an idle turn changes nothing, and a line byte writes as `RxlWrites` and `TxlWrites` say. -/
theorem lineStepsStayInTheirUnit : Obligations.LineStepsStayInTheirUnit := by
  intro s t rest h
  constructor
  · intro hs
    rw [step_turn hs] at h
    obtain rfl | ⟨w, q, -, -, -, ⟨hparams, hrst, -, -, hcmd, -, htx⟩, hwrites⟩ := rxlTurn_cases (settle_eq_next h)
    · exact ⟨.refl _, .refl _, rfl, rfl, rfl, rfl⟩
    · exact ⟨hwrites.ck_eq, hwrites.sameEnc, htx, hcmd, hrst, hparams⟩
  · intro hs
    rw [step_turn hs] at h
    obtain ⟨rfl, -⟩ | ⟨x, -, -, ⟨hparams, hrst, -, hrxq, hcmd, hrx, -⟩, hwrites⟩ := txlTurn_cases (settle_eq_next h)
    · exact ⟨.refl _, .refl _, rfl, rfl, rfl, rfl, rfl, rfl⟩
    · exact ⟨hwrites.ck_eq, hwrites.sameDec, hrxq, hrx, hcmd, hrst, hparams, hwrites.blk_eq⟩

/-! ### The held frame and the sticky flag -/

/-- A step that does not drive `rst_n` low leaves the machine outside reset, and a held outcome keeps `irq_frame` at 1. -/
theorem irqFrame_of_held {s t : State} {turn : Turn} (hturn : turn ≠ .rstLow)
    (hrst : t.rstN = turn.rstAfter s.rstN) (hhold : t.blk.decPhase = .hold) (hirq : irqFrame s = true) :
    irqFrame t = true := by
  have hs : s.rstN = true := (Bool.and_eq_true_iff.1 hirq).1
  have ht : t.rstN = true := by
    cases turn with
    | rstLow => exact absurd rfl hturn
    | rstHigh => exact hrst
    | cmd | rxl | txl => exact hrst.trans hs
  simp [irqFrame, Block.frdy, ht, hhold]

/-- Settles O45: of the writes of a step, only those of DEC_NEXT, DEC_ABORT, SRST and a hard reset touch a held frame. -/
theorem heldFrameStaysUntilReleased : Obligations.HeldFrameStaysUntilReleased := by
  intro s t turn rest hs hhold h
  obtain ⟨-, -, hrst, hwrites⟩ := step_cases hs h
  have hstays (hturn : turn ≠ .rstLow) (hsame : SameDecFrame s.blk t.blk) :
      t.blk.decPhase = .hold ∧ SameDecFrame s.blk t.blk ∧ (irqFrame s = true → irqFrame t = true) :=
    have hhold' : t.blk.decPhase = .hold := hsame.1.trans hhold
    ⟨hhold', hsame, irqFrame_of_held hturn hrst hhold'⟩
  generalize t.blk = b at hwrites hstays
  cases hwrites with
  | nothing _ hturn => exact .inl (hstays hturn (.refl _))
  | command w i _ hword hb =>
    by_cases hrelease : i = .srst ∨ i = .decNext ∨ i = .decAbort
    · obtain rfl | rfl | rfl := hrelease <;> subst hword
      · exact .inr (.inr (.inr (.inr rfl)))
      · exact .inr (.inr (.inl rfl))
      · exact .inr (.inr (.inr (.inl rfl)))
    · obtain ⟨hsrst, hnext, habort⟩ := by simpa only [not_or] using hrelease
      exact .inl (hstays (by simp) (hb.sameDecFrame hsrst hnext habort))
  | rxl _ _ _ _ hnothold => exact absurd hhold hnothold
  | txl x _ hb => exact .inl (hstays (by simp) hb.sameDec.1)
  | hardReset => exact .inr (.inl rfl)

/-- A flag that stays neither falls nor rises. -/
theorem zlen_steady {b b' : Block} {falls rises : Prop} (h : b'.zlen = b.zlen) :
    (b.zlen = true → b'.zlen = false → falls) ∧ (b.zlen = false → b'.zlen = true → rises) := by
  rw [h]
  exact ⟨fun hset hclear => absurd (hset.symm.trans hclear) (by simp),
    fun hclear hset => absurd (hclear.symm.trans hset) (by simp)⟩

/-- Settles O47: the writes of `zlen` are those of DEC_CLRZ, SRST, a hard reset and a zero length byte. -/
theorem zlenIsSticky : Obligations.ZlenIsSticky := by
  intro s t turn rest hs h
  obtain ⟨-, -, -, hwrites⟩ := step_cases hs h
  generalize t.blk = b at hwrites
  cases hwrites with
  | nothing => exact zlen_steady rfl
  | command w i _ hword hb =>
    subst hword
    obtain hsame | ⟨hclear, rfl | rfl⟩ := hb.zlen_cases
    · exact zlen_steady hsame
    · exact ⟨fun _ _ => .inr (.inr rfl), fun _ hset => absurd (hclear.symm.trans hset) (by simp)⟩
    · exact ⟨fun _ _ => .inr (.inl rfl), fun _ hset => absurd (hclear.symm.trans hset) (by simp)⟩
  | rxl w q _ hq _ hb =>
    obtain hsame | ⟨hset, hphase, rfl⟩ := hb.zlen_cases
    · exact zlen_steady hsame
    · exact ⟨fun _ hclear => absurd (hset.symm.trans hclear) (by simp), fun _ _ => ⟨rfl, hphase, by simp [hq]⟩⟩
  | txl x _ hb =>
    exact zlen_steady hb.sameDec.2
  | hardReset => exact ⟨fun _ _ => .inl rfl, fun _ hset => by simp [Block.reset] at hset⟩

/-! ### HOST's command and the turns that wait -/

theorem runWord_of_decode {w : Word} {i : Instr} (h : decode w = .ok i) (s : State) : runWord w s = exec i s := by
  simp [runWord, h]

/-- Settles O7: the turn is HOST's, and outside reset it runs the word that was presented. -/
theorem stepRunsDecodedCommand : Obligations.StepRunsDecodedCommand := by
  intro s w rest i hs hrst hi
  have hbegin : (beginStep rest s).rstN = true := hrst
  calc step s = hostTurn w (beginStep rest s) := step_turn hs
    _ = mapNext (logCommand w) (runWord w (beginStep rest s)) := hostTurn_enabled hbegin
    _ = mapNext (logCommand w) (exec i (beginStep rest s)) := by rw [runWord_of_decode hi]

/-- Settles O39: each agent's turn, with no step enabled, is the start of the step and nothing more. -/
theorem waitingAgentsChangeNothing : Obligations.WaitingAgentsChangeNothing := by
  intro s turn rest hs hwait
  rw [step_turn hs]
  obtain ⟨rfl, hwait⟩ | ⟨rfl, hidle⟩ | ⟨hrst, hlow, hhigh⟩ := hwait
  · exact congrArg settle (rxlTurn_waits (s := beginStep rest s) (.inr hwait))
  · exact congrArg settle (txlTurn_waits (s := beginStep rest s) (.inr hidle))
  · have hbegin : (beginStep rest s).rstN = false := hrst
    cases turn with
    | cmd w => exact hostTurn_inReset hbegin
    | rxl => exact congrArg settle (rxlTurn_waits (.inl hbegin))
    | txl => exact congrArg settle (txlTurn_waits (.inl hbegin))
    | rstLow => exact absurd rfl hlow
    | rstHigh => exact absurd rfl hhigh

end Sys2Proof.Machine
end

section
/-! SUPPORT. From a state that meets the invariant every step goes on and draws no free value on the two lines; the runs from
reset; and a run that R45 as written does not allow (log 22). -/

namespace Sys2Proof.Machine

/-! ### Every step goes on -/

/-- A result that succeeds settles to a next state. -/
theorem settle_total {r : Result State} (h : ∃ u, r = .ok u) : ∃ t, settle r = .next t := by
  obtain ⟨u, rfl⟩ := h
  exact ⟨u, rfl⟩

/-- A command refused while busy succeeds if it does when ENC is idle. -/
theorem unlessBusy_total {s : State} {k : Result State} (h : ∃ u, k = .ok u) : ∃ u, unlessBusy s k = .ok u := by
  unfold unlessBusy
  split
  · exact ⟨_, rfl⟩
  · exact h

theorem readTx_of_lt {i : Nat} {s : State} (h : i < s.params.txcap) : readTx i s = .ok (readCell s.blk.tx i s) :=
  readTx_eq_ok.2 ⟨h, rfl⟩

theorem readRx_of_lt {i : Nat} {s : State} (h : i < s.params.cap) : readRx i s = .ok (readCell s.blk.rx i s) :=
  readRx_eq_ok.2 ⟨h, rfl⟩

theorem writeTx_of_lt {i : Nat} {v : Byte} {s : State} (h : i < s.params.txcap) :
    writeTx i v s = .ok (s.withBlk { s.blk with tx := Memory.write s.blk.tx i v }) :=
  writeTx_eq_ok.2 ⟨h, rfl⟩

theorem writeRx_of_lt {i : Nat} {v : Byte} {s : State} (h : i < s.params.cap) :
    writeRx i v s = .ok (s.withBlk { s.blk with rx := Memory.write s.blk.rx i v }) :=
  writeRx_eq_ok.2 ⟨h, rfl⟩

/-- With a payload of at most TXCAP bytes every command answers: no buffer index is formed that does not exist. -/
theorem exec_total (i : Instr) {s : State} (htxlen : s.blk.txlen.toNat ≤ s.params.txcap) : ∃ t, exec i s = .next t := by
  cases i with
  | encClr => exact settle_total (unlessBusy_total ⟨_, rfl⟩)
  | encLoad d =>
    refine settle_total (unlessBusy_total ?_)
    split
    · exact ⟨_, rfl⟩
    · next hroom =>
      rw [writeTx_of_lt (Nat.lt_of_le_of_ne htxlen hroom)]
      exact ⟨_, rfl⟩
  | encSend =>
    obtain ⟨bs, k, -, hread⟩ := readTxSpan_total s.blk.txlen.toNat 0 s (by omega)
    refine settle_total (unlessBusy_total ?_)
    rw [hread]
    exact ⟨_, rfl⟩
  | encRdbuf k =>
    refine settle_total ?_
    split
    · exact ⟨_, rfl⟩
    · next hk =>
      rw [readTx_of_lt (Nat.not_le.1 hk)]
      exact ⟨_, rfl⟩
  | decRdbuf k =>
    refine settle_total ?_
    split
    · exact ⟨_, rfl⟩
    · next hk =>
      rw [readRx_of_lt (Nat.not_le.1 hk)]
      exact ⟨_, rfl⟩
  | decNext =>
    simp only [exec, execDecNext]
    split
    · exact ⟨_, rfl⟩
    · exact ⟨_, rfl⟩
  | nop | srst | cfg | status | ckClr | ckByte | ckRd | encRdcnt | encRdck | decAbort | decRdck | decRdcnt | decClrz =>
    exact ⟨_, rfl⟩

theorem runWord_total (w : Word) {s : State} (htxlen : s.blk.txlen.toNat ≤ s.params.txcap) :
    ∃ t, runWord w s = .next t := by
  unfold runWord
  split
  · exact exec_total _ htxlen
  · exact ⟨_, rfl⟩

/-- A payload byte finds its place in RX: the length was accepted, so LMAX leaves room for it. -/
theorem storePayload_total {s : State} (hdec : Block.DecInv s.params s.blk) (hcap : 4 ≤ s.params.cap)
    (hphase : s.blk.decPhase = .data ∨ s.blk.decPhase = .esc) (v : Byte) :
    ∃ t, storePayload v s = .ok t ∧ t.freeIdx = s.freeIdx := by
  have hframe : s.blk.decPhase.inFrame = true := by
    rcases hphase with hphase | hphase <;> simp [hphase, DecPhase.inFrame]
  have hlt := hdec.position.idx_lt hphase
  have hlen : s.blk.decLen.toNat ≤ s.params.cap - 3 := hdec.decLen_le hframe
  rw [storePayload, writeRx_of_lt (by omega)]
  exact ⟨_, rfl, rfl⟩

/-- An RXL step goes on and draws no free value: every index it forms exists, and the byte it reads was written. -/
theorem rxlByte_total {s : State} (hdec : Block.DecInv s.params s.blk) (hcap : 4 ≤ s.params.cap) (w : Byte) :
    ∃ t, rxlByte w s = .ok t ∧ t.freeIdx = s.freeIdx := by
  unfold rxlByte
  split
  case h_1 =>
    refine ⟨_, rfl, ?_⟩
    split <;> rfl
  case h_2 =>
    rw [writeRx_of_lt (by omega)]
    exact ⟨_, rfl, rfl⟩
  case h_3 hphase =>
    split
    · exact ⟨_, rfl, rfl⟩
    · exact storePayload_total hdec hcap (.inl hphase) w
  case h_4 hphase => exact storePayload_total hdec hcap (.inr hphase) _
  case h_5 hphase =>
    have hlen : s.blk.decLen.toNat ≤ s.params.cap - 3 := hdec.decLen_le (by simp [hphase, DecPhase.inFrame])
    rw [writeRx_of_lt (by omega)]
    exact ⟨_, rfl, rfl⟩
  case h_6 hphase =>
    have hlen : s.blk.decLen.toNat ≤ s.params.cap - 3 := hdec.decLen_le (by simp [hphase, DecPhase.inFrame])
    obtain ⟨hi, hhi⟩ := hdec.position.ck1_stored hphase
    rw [readRx_of_lt (by omega), readCell_of_some s hhi]
    simp only [onOk_ok]
    rw [writeRx_of_lt (by omega)]
    exact ⟨_, rfl, rfl⟩
  case h_7 => exact ⟨_, rfl, rfl⟩

theorem rxlTurn_total {s : State} (hinv : Inv s) : ∃ t, rxlTurn s = .ok t ∧ t.freeIdx = s.freeIdx := by
  obtain ⟨-, -, hdec⟩ := Block.inv_iff.1 hinv.block
  obtain ⟨hcap, -⟩ := Params.wf_iff.1 hinv.params_wf
  unfold rxlTurn
  split
  · split
    · exact ⟨_, rfl, rfl⟩
    · next w rest _ => exact rxlByte_total (s := acceptByte w rest s) hdec hcap w
  · exact ⟨_, rfl, rfl⟩

/-- A TXL step goes on and draws no free value: the payload byte it reads was written. -/
theorem txlStep_total {s : State} (henc : Block.EncInv s.params s.blk) :
    ∃ t, txlStep s = .ok t ∧ t.freeIdx = s.freeIdx := by
  have hread (hphase : s.blk.encPhase = .data ∨ s.blk.encPhase = .esc2) :
      ∃ v, readTx s.blk.encIdx.toNat s = .ok (v, s) := by
    have hlt := henc.position.idx_lt hphase
    obtain ⟨v, hv⟩ := henc.payload_byte hlt
    exact ⟨v, readTx_eq_ok.2 ⟨Nat.lt_of_lt_of_le hlt henc.txlen_le, readCell_of_some s hv⟩⟩
  unfold txlStep
  split
  case h_4 hphase =>
    obtain ⟨v, hv⟩ := hread (.inl hphase)
    rw [hv]
    simp only [onOk_ok]
    split
    · exact ⟨_, rfl, rfl⟩
    · exact ⟨_, rfl, rfl⟩
  case h_5 hphase =>
    obtain ⟨v, hv⟩ := hread (.inr hphase)
    rw [hv]
    exact ⟨_, rfl, rfl⟩
  all_goals exact ⟨_, rfl, rfl⟩

theorem txlTurn_total {s : State} (hinv : Inv s) : ∃ t, txlTurn s = .ok t ∧ t.freeIdx = s.freeIdx := by
  obtain ⟨-, henc, -⟩ := Block.inv_iff.1 hinv.block
  unfold txlTurn
  split
  · exact txlStep_total henc
  · exact ⟨_, rfl, rfl⟩

/-- The invariant does not read the ports, the other inputs and the observation. -/
theorem Inv.congr {s t : State} (h : Inv s) (hparams : t.params = s.params) (hblk : t.blk = s.blk)
    (hrst : t.rstN = s.rstN) : Inv t := by
  refine ⟨hparams ▸ h.params_wf, ?_, ?_⟩
  · rw [hparams, hblk]
    exact h.block
  · rw [hrst, hblk]
    exact h.in_reset

/-- Settles O55: each agent's turn goes on from a state that meets the invariant. -/
theorem invStatesRun : Obligations.InvStatesRun := by
  intro s hinv
  cases hs : s.sched with
  | nil => exact ⟨_, step_idle hs⟩
  | cons turn rest =>
    have hbegin : Inv (beginStep rest s) := hinv.congr rfl rfl rfl
    rw [Runs, step_turn hs]
    cases turn with
    | cmd w =>
      simp only [takeTurn, hostTurn]
      split
      · obtain ⟨t, ht⟩ := runWord_total w (s := beginStep rest s) hinv.block.facts.txlen_le
        rw [ht]
        exact ⟨_, rfl⟩
      · exact ⟨_, rfl⟩
    | rxl =>
      obtain ⟨t, ht, -⟩ := rxlTurn_total hbegin
      exact settle_total ⟨t, ht⟩
    | txl =>
      obtain ⟨t, ht, -⟩ := txlTurn_total hbegin
      exact settle_total ⟨t, ht⟩
    | rstLow => exact ⟨_, rfl⟩
    | rstHigh => exact ⟨_, rfl⟩

/-! ### The runs from reset -/

/-- A state that holds the registers of reset, at capacities in their ranges, meets the invariant. -/
theorem inv_of_reset {s : State} (hwf : s.params.wf = true) (hblk : s.blk = Block.reset) : Inv s :=
  ⟨hwf, hblk ▸ Block.inv_reset _, fun _ => hblk⟩

/-- Settles O53: at reset no payload, no frame and no result is there to speak of, at any capacities. -/
theorem invHoldsAtReset : Obligations.InvHoldsAtReset :=
  ⟨inv_of_reset (by decide) rfl, fun _ hwf => inv_of_reset hwf rfl⟩

/-- A property of states that a step on any of the turns `ok` keeps, and that no such step leaves without a next state,
holds after every run of such turns. -/
theorem run_keeps (I : State → Prop) (ok : Turn → Prop)
    (hstep : ∀ s turn rest, s.sched = turn :: rest → ok turn → I s → ∃ t, step s = .next t ∧ I t) :
    ∀ (ts : List Turn) (s : State) (rest : List Turn), s.sched = ts ++ rest → (∀ turn ∈ ts, ok turn) → I s →
      ∃ t, Host.Core.run Sys2Proof.core ts.length s = .next t ∧ I t := by
  intro ts
  induction ts with
  | nil => exact fun s _ _ _ hI => ⟨s, rfl, hI⟩
  | cons turn ts ih =>
    intro s rest hs hok hI
    obtain ⟨hturn, hrest⟩ := List.forall_mem_cons.1 hok
    obtain ⟨u, hu, hIu⟩ := hstep s turn _ hs hturn hI
    obtain ⟨hsched, -⟩ := step_cases hs hu
    obtain ⟨t, ht, hIt⟩ := ih u rest hsched hrest hIu
    have hcore : Sys2Proof.core.step s = .next u := hu
    refine ⟨t, ?_, hIt⟩
    simp only [List.length_cons, Host.Core.run, hcore]
    exact ht

/-- `enc_idx <= txlen` as R32 and R45 give it, in every phase (log 22). -/
def IdxInPayload (b : Block) : Prop := b.encIdx.toNat ≤ b.txlen.toNat

/-- Every command but ENC_CLR keeps `enc_idx <= txlen`. -/
theorem CommandWrites.keeps_idxInPayload {P : Params} {b b' : Block} {i : Instr} (hwf : P.wf = true)
    (h : CommandWrites P b i b') (hi : i ≠ .encClr) (hle : IdxInPayload b) : IdxInPayload b' := by
  obtain ⟨-, -, -, htxcap⟩ := Params.wf_iff.1 hwf
  cases h with
  | encClr => exact absurd rfl hi
  | encLoad d _ hroom =>
    have hcount : (b.txlen + 1#8).toNat = b.txlen.toNat + 1 := toNat_add_one (by omega)
    exact Nat.le_trans (Nat.le_succ_of_le hle) hcount.ge
  | srst | encSend => exact Nat.zero_le _
  | nothing | ckClr | ckByte | decNext | decAbort | decClrz => exact hle

/-- A TXL step keeps `enc_idx <= txlen`: it counts up only inside the payload. -/
theorem TxlWrites.keeps_idxInPayload {P Q : Params} {x : Byte} {b b' : Block} (h : TxlWrites Q b x b')
    (henc : Block.EncInv P b) (hle : IdxInPayload b) : IdxInPayload b' := by
  have hcount (hphase : b.encPhase = .data ∨ b.encPhase = .esc2) : IdxInPayload b.afterPayloadByte := by
    have hlt := henc.position.idx_lt hphase
    have hbound := b.txlen.isLt
    have hidx : (b.encIdx + 1#8).toNat = b.encIdx.toNat + 1 := toNat_add_one (by omega)
    exact hidx.trans_le hlt
  cases h with
  | plain _ hphase => exact hcount (.inl hphase)
  | escaped _ hphase => exact hcount (.inr hphase)
  | length => exact Nat.zero_le _
  | start | escape | firstCk | lastCk => exact hle

/-- Every step but an ENC_CLR keeps `enc_idx <= txlen` from a state that meets the invariant. -/
theorem step_keeps_idxInPayload {s t : State} {turn : Turn} {rest : List Turn} (hinv : Inv s)
    (hs : s.sched = turn :: rest) (hturn : turn ≠ .cmd 0x2000#16) (hle : IdxInPayload s.blk) (h : step s = .next t) :
    IdxInPayload t.blk := by
  obtain ⟨-, henc, -⟩ := Block.inv_iff.1 hinv.block
  obtain ⟨-, -, -, hwrites⟩ := step_cases hs h
  generalize t.blk = b at hwrites
  cases hwrites with
  | nothing => exact hle
  | command w i _ hword hb =>
    refine hb.keeps_idxInPayload hinv.params_wf ?_ hle
    rintro rfl
    exact hturn (hword ▸ rfl)
  | rxl w q _ _ _ hb =>
    obtain ⟨htxlen, hidx, -⟩ := hb.sameEnc
    rw [IdxInPayload, htxlen, hidx]
    exact hle
  | txl x _ hb => exact hb.keeps_idxInPayload henc hle
  | hardReset => exact Nat.zero_le _

/-- What is kept along a run of the turns `ts` at capacities `P`: the invariant, and `enc_idx <= txlen` where no ENC_CLR
is among them. -/
structure ReachableFacts (P : Params) (ts : List Turn) (s : State) : Prop where
  params_eq : s.params = P
  inv : Inv s
  idxInPayload : .cmd 0x2000#16 ∉ ts → IdxInPayload s.blk

/-- Settles O56: the invariant holds at reset and every step keeps it, and beside it every step but ENC_CLR keeps
`enc_idx <= txlen`. -/
theorem reachableStatesMeetR45 : Obligations.ReachableStatesMeetR45 := by
  refine ⟨fun P ts bytes hwf => ?_, fun s t turn rest hinv hs hturn hle h =>
    step_keeps_idxInPayload hinv hs hturn hle h⟩
  have hstep : ∀ s turn rest, s.sched = turn :: rest → turn ∈ ts → ReachableFacts P ts s →
      ∃ t, step s = .next t ∧ ReachableFacts P ts t := by
    rintro s turn rest hs hturn ⟨hparams, hinv, hle⟩
    obtain ⟨t, ht⟩ := invStatesRun s hinv
    obtain ⟨-, hparams', -⟩ := step_cases hs ht
    exact ⟨t, ht, hparams'.trans hparams, stepKeepsInv s t hinv ht, fun hclr =>
      step_keeps_idxInPayload hinv hs (fun heq => hclr (heq ▸ hturn)) (hle hclr) ht⟩
  have hreset : ReachableFacts P ts { State.reset with params := P, rxq := bytes, sched := ts ++ [] } :=
    ⟨rfl, inv_of_reset hwf rfl, fun _ => Nat.zero_le _⟩
  obtain ⟨t, ht, hparams, hinv, hidx⟩ := run_keeps _ _ hstep ts _ [] rfl (fun _ hturn => hturn) hreset
  exact ⟨t, ht, hparams ▸ hinv.block.facts, hidx⟩

/-! ### The run that leaves `enc_idx` above `txlen` (log 22) -/

/-- The state after one byte was loaded and sent, the payload cleared and the counters read, from reset. -/
def clearedAfterSend : State :=
  { State.reset with
    blk := { Block.reset with encIdx := 0x01#8, encCk := 0x2223#16, tx := [(0, 0x21#8)] }
    rsp := some ⟨.ok, 0x0100#16⟩
    cmdLog := [(0x2121#16, ⟨.ok, 0x0000#16⟩), (0x2200#16, ⟨.ok, 0x0000#16⟩), (0x2000#16, ⟨.ok, 0x0000#16⟩),
      (0x2300#16, ⟨.ok, 0x0100#16⟩)]
    txLog := [0x7E#8, 0x01#8, 0x21#8, 0x22#8, 0x23#8] }

/-- Settles O57: the run of the nine turns, carried out, ends with `enc_idx` 1 over an empty payload. -/
theorem clrAfterSendLeavesIdxAbove : Obligations.ClrAfterSendLeavesIdxAbove :=
  ⟨clearedAfterSend, rfl, rfl, Nat.zero_lt_one, rfl, rfl⟩

end Sys2Proof.Machine
end

section
/-! SUPPORT. What a line turn reads: its own unit, the capacities, `rst_n` and the count of free values. Its outcome in any
state that agrees on these is the same, placed into that state. -/

namespace Sys2Proof.Machine

/-! ### Turns of TXL and their surroundings -/

/-- The state `c` with unit ENC as in `s`, and what `s` has handed to TXL added to what `c` has. -/
def State.encIn (s c : State) : State :=
  { c with
    params := s.params
    rstN := s.rstN
    freeIdx := s.freeIdx
    txLog := c.txLog ++ s.txLog
    blk := { c.blk with
      txlen := s.blk.txlen
      encIdx := s.blk.encIdx
      encCk := s.blk.encCk
      encPhase := s.blk.encPhase
      tx := s.blk.tx } }

theorem readTx_encIn (i : Nat) (s c : State) :
    readTx i (s.encIn c) = onOk (readTx i s) fun (x, t) => .ok (x, t.encIn c) := by
  have hcell : readCell s.blk.tx i (s.encIn c) = ((readCell s.blk.tx i s).1, (readCell s.blk.tx i s).2.encIn c) := by
    unfold readCell
    split <;> rfl
  by_cases hi : i < s.params.txcap
  · rw [readTx_of_lt hi, onOk_ok]
    exact (readTx_of_lt (s := s.encIn c) hi).trans (congrArg Except.ok hcell)
  · simp [readTx, State.encIn, hi]

theorem emit_encIn (x : Byte) {b b' : Block} (t c : State) (hb : b' = ((t.withBlk b).encIn c).blk) :
    emit x ((t.encIn c).withBlk b') = (emit x (t.withBlk b)).encIn c := by
  simp [hb, emit, State.encIn, State.withBlk]

/-- A TXL step in any surroundings is the step of unit ENC, put back into them. -/
theorem txlStep_encIn (s c : State) : txlStep (s.encIn c) = onOk (txlStep s) fun t => .ok (t.encIn c) := by
  have hphase : (s.encIn c).blk.encPhase = s.blk.encPhase := rfl
  have hidx : (s.encIn c).blk.encIdx = s.blk.encIdx := rfl
  unfold txlStep
  rw [hphase, hidx, readTx_encIn]
  cases s.blk.encPhase with
  | idle => rfl
  | start | len | ck1 | ck2 => exact congrArg Except.ok (emit_encIn _ _ _ rfl)
  | data =>
    cases readTx s.blk.encIdx.toNat s with
    | error f => rfl
    | ok r =>
      simp only [onOk_ok]
      split
      · exact congrArg Except.ok (emit_encIn _ _ _ rfl)
      · exact congrArg Except.ok (emit_encIn _ _ _ rfl)
  | esc2 =>
    cases readTx s.blk.encIdx.toNat s with
    | error f => rfl
    | ok r => exact congrArg Except.ok (emit_encIn _ _ _ rfl)

/-- The surroundings `c` show TXL what `s` shows it. -/
structure TxlAgrees (s c : State) : Prop where
  params : c.params = s.params
  rstN : c.rstN = s.rstN
  freeIdx : c.freeIdx = s.freeIdx
  enc : c.blk = { c.blk with
    txlen := s.blk.txlen, encIdx := s.blk.encIdx, encCk := s.blk.encCk, encPhase := s.blk.encPhase, tx := s.blk.tx }

/-- The state in which nothing was handed to TXL yet. -/
def State.clearTxLog (s : State) : State := { s with txLog := [] }

/-- TXL's turn in any state that shows it what `s` shows it: the turn taken in `s`, put into that state. -/
theorem txlTurn_of_agrees {s c : State} (h : TxlAgrees s c) :
    txlTurn c = onOk (txlTurn s.clearTxLog) fun t => .ok (t.encIn c) := by
  have hc : s.clearTxLog.encIn c = c := by
    obtain ⟨hparams, hrst, hfree, henc⟩ := h
    simp only [State.encIn, State.clearTxLog, List.append_nil, ← hparams, ← hrst, ← hfree]
    rw [← henc]
  have hidle : c.blk.encPhase = s.clearTxLog.blk.encPhase := (congrArg Block.encPhase h.enc :)
  have hrst : c.rstN = s.clearTxLog.rstN := h.rstN
  unfold txlTurn
  rw [hidle, hrst]
  split
  · conv_lhs => rw [← hc]
    exact txlStep_encIn _ _
  · rw [onOk_ok, hc]

/-! ### Turns of RXL and their surroundings -/

/-- The state `c` with unit DEC as in `s`, and the bytes of RXL as in `s`. -/
def State.decIn (s c : State) : State :=
  { c with
    params := s.params
    rstN := s.rstN
    freeIdx := s.freeIdx
    rxq := s.rxq
    rxLog := s.rxLog
    blk := { c.blk with
      decPhase := s.blk.decPhase
      decResult := s.blk.decResult
      decLen := s.blk.decLen
      decIdx := s.blk.decIdx
      decS1 := s.blk.decS1
      decS2 := s.blk.decS2
      zlen := s.blk.zlen
      rx := s.blk.rx } }

theorem readRx_decIn (i : Nat) (s c : State) :
    readRx i (s.decIn c) = onOk (readRx i s) fun (x, t) => .ok (x, t.decIn c) := by
  have hcell : readCell s.blk.rx i (s.decIn c) = ((readCell s.blk.rx i s).1, (readCell s.blk.rx i s).2.decIn c) := by
    unfold readCell
    split <;> rfl
  by_cases hi : i < s.params.cap
  · rw [readRx_of_lt hi, onOk_ok]
    exact (readRx_of_lt (s := s.decIn c) hi).trans (congrArg Except.ok hcell)
  · simp [readRx, State.decIn, hi]

theorem writeRx_decIn (i : Nat) (v : Byte) (s c : State) :
    writeRx i v (s.decIn c) = onOk (writeRx i v s) fun t => .ok (t.decIn c) := by
  by_cases hi : i < s.params.cap
  · rw [writeRx_of_lt hi, onOk_ok]
    exact writeRx_of_lt (s := s.decIn c) hi
  · simp [writeRx, State.decIn, hi]

theorem storePayload_decIn (v : Byte) (s c : State) :
    storePayload v (s.decIn c) = onOk (storePayload v s) fun t => .ok (t.decIn c) := by
  have hidx : (s.decIn c).blk.decIdx = s.blk.decIdx := rfl
  unfold storePayload
  rw [hidx, writeRx_decIn]
  cases writeRx (1 + s.blk.decIdx.toNat) v s with
  | error f => rfl
  | ok t => rfl

theorem judgeLength_decIn (P : Params) (w : Byte) (t c : State) :
    (t.decIn c).withBlk (Block.judgeLength P w ((t.decIn c).blk.startFrame w)) =
      (t.withBlk (Block.judgeLength P w (t.blk.startFrame w))).decIn c := by
  unfold Block.judgeLength
  split
  · rfl
  · split <;> rfl

/-- An RXL step in any surroundings is the step of unit DEC, put back into them. -/
theorem rxlByte_decIn (w : Byte) (s c : State) :
    rxlByte w (s.decIn c) = onOk (rxlByte w s) fun t => .ok (t.decIn c) := by
  have hphase : (s.decIn c).blk.decPhase = s.blk.decPhase := rfl
  have hlen : (s.decIn c).blk.decLen = s.blk.decLen := rfl
  unfold rxlByte
  rw [hphase, hlen, writeRx_decIn, writeRx_decIn, readRx_decIn, storePayload_decIn, storePayload_decIn]
  cases s.blk.decPhase with
  | hunt =>
    refine congrArg Except.ok ?_
    split <;> rfl
  | len =>
    cases writeRx 0 w s with
    | error f => rfl
    | ok t => exact congrArg Except.ok (judgeLength_decIn ..)
  | data =>
    simp only
    split <;> rfl
  | esc | hold => rfl
  | ck1 =>
    cases writeRx (s.blk.decLen.toNat + 1) w s with
    | error f => rfl
    | ok t => rfl
  | ck2 =>
    cases readRx (s.blk.decLen.toNat + 1) s with
    | error f => rfl
    | ok r =>
      simp only [onOk_ok]
      rw [writeRx_decIn]
      cases writeRx (s.blk.decLen.toNat + 2) w r.2 with
      | error f => rfl
      | ok t => rfl

/-- The surroundings `c` show RXL what `s` shows it. -/
structure RxlAgrees (s c : State) : Prop where
  params : c.params = s.params
  rstN : c.rstN = s.rstN
  freeIdx : c.freeIdx = s.freeIdx
  rxq : c.rxq = s.rxq
  rxLog : c.rxLog = s.rxLog
  dec : c.blk = { c.blk with
    decPhase := s.blk.decPhase, decResult := s.blk.decResult, decLen := s.blk.decLen, decIdx := s.blk.decIdx
    decS1 := s.blk.decS1, decS2 := s.blk.decS2, zlen := s.blk.zlen, rx := s.blk.rx }

/-- RXL's turn in any state that shows it what `s` shows it: the turn taken in `s`, put into that state. -/
theorem rxlTurn_of_agrees {s c : State} (h : RxlAgrees s c) :
    rxlTurn c = onOk (rxlTurn s) fun t => .ok (t.decIn c) := by
  have hc : s.decIn c = c := by
    obtain ⟨hparams, hrst, hfree, hrxq, hrxLog, hdec⟩ := h
    simp only [State.decIn, ← hparams, ← hrst, ← hfree, ← hrxq, ← hrxLog]
    rw [← hdec]
  have hhold : c.blk.decPhase = s.blk.decPhase := (congrArg Block.decPhase h.dec :)
  unfold rxlTurn
  rw [hhold, h.rstN, h.rxq]
  split
  · cases s.rxq with
    | nil => rw [onOk_ok, hc]
    | cons w rest =>
      have haccept : acceptByte w rest c = (acceptByte w rest s).decIn c := by
        conv_lhs => rw [← hc]
        rfl
      simp only [haccept]
      exact rxlByte_decIn w (acceptByte w rest s) c
  · rw [onOk_ok, hc]

/-! ### The two orders of an RXL turn and a TXL turn -/

theorem run_one (s : State) : Host.Core.run Sys2Proof.core 1 s = step s := by
  have hcore : Sys2Proof.core.step s = step s := rfl
  simp only [Host.Core.run, hcore]
  cases step s <;> rfl

/-- Two turns played, where the first goes on and leaves the second next. -/
theorem playTurns_pair {a b : Turn} {s u : State} (h : takeTurn a (beginStep (b :: s.sched) s) = .next u)
    (hu : u.sched = b :: s.sched) : playTurns [a, b] s = takeTurn b (beginStep s.sched u) := by
  have hfirst : playTurns [a, b] s = Host.Core.run Sys2Proof.core 1 u :=
    (playTurns_cons a [b] s).trans (congrArg (andThen · (Host.Core.run Sys2Proof.core 1)) h)
  exact hfirst.trans ((run_one u).trans (step_turn hu))

/-- An RXL turn leaves the capacities and `rst_n`. -/
theorem rxlTurn_inputs {s t : State} (h : rxlTurn s = .ok t) : t.params = s.params ∧ t.rstN = s.rstN := by
  obtain rfl | ⟨w, q, -, -, -, ⟨hparams, hrst, -⟩, -⟩ := rxlTurn_cases h
  · exact ⟨rfl, rfl⟩
  · exact ⟨hparams, hrst⟩

/-- A TXL turn leaves the capacities and `rst_n`. -/
theorem txlTurn_inputs {s t : State} (h : txlTurn s = .ok t) : t.params = s.params ∧ t.rstN = s.rstN := by
  obtain ⟨rfl, -⟩ | ⟨x, -, -, ⟨hparams, hrst, -⟩, -⟩ := txlTurn_cases h
  · exact ⟨rfl, rfl⟩
  · exact ⟨hparams, hrst⟩

/-- RXL's turn on the machine, where it shows RXL what `s` shows it. -/
theorem takeTurn_rxl_of_agrees {s c u : State} (h : RxlAgrees s c) (hu : rxlTurn s = .ok u) :
    takeTurn .rxl c = .next (u.decIn c) := by
  rw [takeTurn, rxlTurn_of_agrees h, hu, onOk_ok, settle_ok]

/-- TXL's turn on the machine, where it shows TXL what `s` shows it. -/
theorem takeTurn_txl_of_agrees {s c v : State} (h : TxlAgrees s c) (hv : txlTurn s.clearTxLog = .ok v) :
    takeTurn .txl c = .next (v.encIn c) := by
  rw [takeTurn, txlTurn_of_agrees h, hv, onOk_ok, settle_ok]

/-- Settles O59: under the invariant neither line draws a free value, so each shows the other what it showed before, and
both orders put the same two outcomes into the same state. -/
theorem rxlAndTxlCommute : Obligations.RxlAndTxlCommute := by
  intro s hinv
  obtain ⟨u, hu, hufree⟩ := rxlTurn_total hinv
  obtain ⟨v, hv, hvfree⟩ := txlTurn_total (s := s.clearTxLog) (hinv.congr rfl rfl rfl)
  obtain ⟨huparams, hurst⟩ := rxlTurn_inputs hu
  obtain ⟨hvparams, hvrst⟩ := txlTurn_inputs hv
  have hrxl : playTurns [.rxl, .txl] s =
      .next (v.encIn (beginStep s.sched (u.decIn (beginStep (.txl :: s.sched) s)))) := by
    rw [playTurns_pair (takeTurn_rxl_of_agrees (s := s) ⟨rfl, rfl, rfl, rfl, rfl, rfl⟩ hu) rfl]
    exact takeTurn_txl_of_agrees ⟨huparams, hurst, hufree, rfl⟩ hv
  have htxl : playTurns [.txl, .rxl] s =
      .next (u.decIn (beginStep s.sched (v.encIn (beginStep (.rxl :: s.sched) s)))) := by
    rw [playTurns_pair (takeTurn_txl_of_agrees (s := s) ⟨rfl, rfl, rfl, rfl⟩ hv) rfl]
    exact takeTurn_rxl_of_agrees (s := s) ⟨hvparams, hvrst, hvfree, rfl, rfl, rfl⟩ hu
  have hparams : v.params = u.params := hvparams.trans huparams.symm
  have hrst : v.rstN = u.rstN := hvrst.trans hurst.symm
  have hfree : v.freeIdx = u.freeIdx := hvfree.trans hufree.symm
  rw [hrxl, htxl]
  simp only [State.encIn, State.decIn, beginStep, hparams, hrst, hfree]

/-! ### The ports -/

/-- The port's byte is the one byte that TXL's turn hands over, with nothing handed over before. -/
theorem txPort_eq {s t : State} (h : txlTurn s.clearTxLog = .ok t) : txPort s = t.txLog.head? := by
  have h : txlTurn { s with txLog := [] } = .ok t := h
  simp only [txPort, h]

/-- TXL's turn hands over no byte while `tx_valid` is 0 and exactly one while it is 1. -/
theorem txLog_of_txlTurn {s t : State} (h : txlTurn s.clearTxLog = .ok t) :
    txValid s = false ∧ t.txLog = [] ∨ txValid s = true ∧ ∃ x, t.txLog = [x] := by
  obtain ⟨rfl, hwait⟩ | ⟨x, hrst, hbusy, ⟨-, -, -, -, -, -, htx⟩, -⟩ := txlTurn_cases h
  · refine .inl ⟨?_, rfl⟩
    have hwait : s.rstN = false ∨ s.blk.encPhase = .idle := hwait
    rcases hwait with hwait | hwait <;> simp [txValid, Block.encBusy, hwait]
  · have hrst : s.rstN = true := hrst
    have hbusy : s.blk.encPhase ≠ .idle := hbusy
    exact .inr ⟨by simp [txValid, Block.encBusy, hrst, hbusy], x, htx⟩

/-- Settles O60: the levels by their definitions, and the port by the turn that TXL would take next. -/
theorem outputLevelsFollowPhases : Obligations.OutputLevelsFollowPhases := by
  refine ⟨fun s => ?_, fun s hinv => ?_, fun s t rest hs h => ?_⟩
  · simp [irqFrame, rxReady, txValid, cmdReady, Block.frdy, Block.encBusy]
  · obtain ⟨t, ht, -⟩ := txlTurn_total (s := s.clearTxLog) (hinv.congr rfl rfl rfl)
    rw [txPort_eq ht]
    obtain ⟨hvalid, hlog⟩ | ⟨hvalid, x, hlog⟩ := txLog_of_txlTurn ht <;> simp [hvalid, hlog]
  · rw [step_turn hs] at h
    have h := settle_eq_next h
    rw [txlTurn_of_agrees (s := s) (c := beginStep rest s) ⟨rfl, rfl, rfl, rfl⟩] at h
    obtain ⟨u, hu, h⟩ := onOk_eq_ok h
    have hlog : t.txLog = s.txLog ++ u.txLog := by cases h; rfl
    rw [txPort_eq hu, hlog]
    obtain ⟨-, hone⟩ | ⟨-, x, hone⟩ := txLog_of_txlTurn hu <;> simp [hone]

end Sys2Proof.Machine
end

section
/-! SUPPORT. Reading and clearing: the answers of the read commands, which depend on the capacities and the block alone, and
the commands that clear, whose second carrying out finds nothing left to do. -/

namespace Sys2Proof.Machine

/-! ### Form Z commands and their words (R83, R84) -/

/-- The opcode of a form Z command leaves to the decoder only the check of the operand byte. -/
theorem decode_pack_of_formZ {i : Instr} (hz : formOf i = .z) (x : Byte) :
    decode (pack (opcodeOf i) x) = decodeZ (opcodeOf i) x i := by
  rw [decode, opField_pack, immField_pack]
  cases i with
  | ckByte | encLoad | encRdbuf | decRdbuf => cases hz
  | nop | srst | cfg | status | ckClr | ckRd | encClr | encSend | encRdcnt | encRdck | decNext | decAbort | decRdck
    | decRdcnt | decClrz => rfl

theorem isZCommand_of_formZ {i : Instr} (hz : formOf i = .z) : IsZCommand (opcodeOf i) i := by
  refine ⟨(decode_pack_of_formZ hz _).trans (decodeZ_eq_ok.2 ⟨rfl, rfl⟩), fun x s hx => ?_⟩
  simp only [runWord, decode_pack_of_formZ hz, decodeZ, if_neg hx]
  rfl

/-! ### The register reads -/

/-- `{hi, lo}` as a number: the first-named byte counts 256 times (R61). -/
theorem pack_eq_ofNat (hi lo : Byte) : pack hi lo = BitVec.ofNat 16 (hi.toNat * 256 + lo.toNat) := by
  have hhi := hi.isLt
  have hlo := lo.isLt
  apply BitVec.eq_of_toNat_eq
  rw [BitVec.toNat_ofNat, Nat.mod_eq_of_lt (by omega)]
  calc (hi ++ lo).toNat = hi.toNat <<< 8 ||| lo.toNat := BitVec.toNat_append hi lo
    _ = hi.toNat <<< 8 + lo.toNat := (Nat.shiftLeft_add_eq_or_of_lt hlo _).symm
    _ = hi.toNat * 256 + lo.toNat := by rw [Nat.shiftLeft_eq]

/-- Settles O19: each read answers its two bytes packed, and writes nothing else. -/
theorem registerReadsAnswer : Obligations.RegisterReadsAnswer := by
  refine ⟨isZCommand_of_formZ (i := .ckRd) rfl, isZCommand_of_formZ (i := .encRdcnt) rfl,
    isZCommand_of_formZ (i := .encRdck) rfl, isZCommand_of_formZ (i := .decRdck) rfl,
    isZCommand_of_formZ (i := .decRdcnt) rfl, fun s => ?_⟩
  simp only [← pack_eq_ofNat]
  exact ⟨rfl, rfl, rfl, rfl, rfl⟩

/-! ### What a read answers (R66) -/

/-- The read commands of R66: NOP and those that return a register, a flag word or a buffer byte. -/
def isRead : Instr → Bool
  | .nop | .cfg | .status | .ckRd | .encRdcnt | .encRdck | .encRdbuf _ | .decRdbuf _ | .decRdck | .decRdcnt => true
  | .srst | .ckClr | .ckByte _ | .encClr | .encLoad _ | .encSend | .decNext | .decAbort | .decClrz => false

/-- A read command writes no register and no buffer byte. -/
theorem CommandWrites.eq_of_isRead {P : Params} {b b' : Block} {i : Instr} (h : CommandWrites P b i b')
    (hread : isRead i = true) : b' = b := by
  cases h with
  | nothing => rfl
  | srst | ckClr | ckByte | encClr | encLoad | encSend | decNext | decAbort | decClrz => cases hread

theorem exec_encRdbuf_of_written {k : Nat} {s : State} {v : Byte} (hk : k < s.params.txcap)
    (hv : Memory.read? s.blk.tx k = some v) : exec (.encRdbuf k) s = .next (respond (zext16 v) s) := by
  simp only [exec, execEncRdbuf, if_neg (Nat.not_le.2 hk), readTx_of_lt hk, readCell_of_some s hv, onOk_ok, settle_ok]

theorem exec_encRdbuf_of_le {k : Nat} {s : State} (hk : s.params.txcap ≤ k) :
    exec (.encRdbuf k) s = .next (raiseErr .range s) := by
  simp only [exec, execEncRdbuf, if_pos hk, settle_ok]

theorem exec_decRdbuf_of_written {k : Nat} {s : State} {v : Byte} (hk : k < s.params.cap)
    (hv : Memory.read? s.blk.rx k = some v) : exec (.decRdbuf k) s = .next (respond (zext16 v) s) := by
  simp only [exec, execDecRdbuf, if_neg (Nat.not_le.2 hk), readRx_of_lt hk, readCell_of_some s hv, onOk_ok, settle_ok]

theorem exec_decRdbuf_of_le {k : Nat} {s : State} (hk : s.params.cap ≤ k) :
    exec (.decRdbuf k) s = .next (raiseErr .range s) := by
  simp only [exec, execDecRdbuf, if_pos hk, settle_ok]

/-- The command answers `r`, and does nothing else, in every state with the capacities and the block of `s`. -/
def Answers (i : Instr) (s : State) (r : Response) : Prop :=
  ∀ t : State, t.params = s.params → t.blk = s.blk → exec i t = .next { t with rsp := some r }

/-- A read of the buffer `m` with capacity `cap` answers at an index that is out of range or was written. -/
theorem exists_answers_of_bufferRead {i : Instr} {k : Nat} {s : State} (m : Block → Memory) (cap : Params → Nat)
    (hin : ∀ {t : State} {v : Byte}, k < cap t.params → Memory.read? (m t.blk) k = some v →
      exec i t = .next (respond (zext16 v) t))
    (hout : ∀ {t : State}, cap t.params ≤ k → exec i t = .next (raiseErr .range t))
    (hwritten : k < cap s.params → Memory.read? (m s.blk) k ≠ none) : ∃ r, Answers i s r := by
  rcases Nat.lt_or_ge k (cap s.params) with hk | hk
  · obtain ⟨v, hv⟩ := Option.ne_none_iff_exists'.1 (hwritten hk)
    exact ⟨_, fun t hparams hblk => hin (hparams ▸ hk) (hblk ▸ hv)⟩
  · exact ⟨_, fun t hparams _ => hout (hparams ▸ hk)⟩

/-- Every read command has an answer that the capacities and the block settle; for a buffer read in range this asks for a
written byte (U1, log 13). -/
theorem exists_answers_of_isRead {i : Instr} {s : State} (hread : isRead i = true)
    (htx : ∀ k, i = .encRdbuf k → k < s.params.txcap → Memory.read? s.blk.tx k ≠ none)
    (hrx : ∀ k, i = .decRdbuf k → k < s.params.cap → Memory.read? s.blk.rx k ≠ none) : ∃ r, Answers i s r := by
  cases i with
  | nop => exact ⟨⟨.ok, 0x0000#16⟩, fun _ _ _ => rfl⟩
  | cfg => exact ⟨⟨.ok, cfgWord s.params⟩, fun _ hparams _ => hparams ▸ rfl⟩
  | status => exact ⟨⟨.ok, s.blk.status⟩, fun _ _ hblk => hblk ▸ rfl⟩
  | ckRd => exact ⟨⟨.ok, pack s.blk.ckS1 s.blk.ckS2⟩, fun _ _ hblk => hblk ▸ rfl⟩
  | encRdcnt => exact ⟨⟨.ok, pack s.blk.encIdx s.blk.txlen⟩, fun _ _ hblk => hblk ▸ rfl⟩
  | encRdck => exact ⟨⟨.ok, s.blk.encCk⟩, fun _ _ hblk => hblk ▸ rfl⟩
  | encRdbuf k =>
    exact exists_answers_of_bufferRead Block.tx Params.txcap exec_encRdbuf_of_written exec_encRdbuf_of_le (htx k rfl)
  | decRdbuf k =>
    exact exists_answers_of_bufferRead Block.rx Params.cap exec_decRdbuf_of_written exec_decRdbuf_of_le (hrx k rfl)
  | decRdck => exact ⟨⟨.ok, pack s.blk.decS1 s.blk.decS2⟩, fun _ _ hblk => hblk ▸ rfl⟩
  | decRdcnt => exact ⟨⟨.ok, pack s.blk.decLen s.blk.decIdx⟩, fun _ _ hblk => hblk ▸ rfl⟩
  | srst | ckClr | ckByte | encClr | encLoad | encSend | decNext | decAbort | decClrz => cases hread

/-- A command that answers `r` answers it again at once: its answer changed neither the capacities nor the block. -/
theorem Answers.repeat_rsp {i : Instr} {s t u : State} {r : Response} (h : Answers i s r) (ht : exec i s = .next t)
    (hu : exec i t = .next u) : u.rsp = t.rsp := by
  cases ht.symm.trans (h s rfl rfl)
  cases hu.symm.trans (h _ rfl rfl)
  rfl

/-! ### The commands that clear (R66) -/

theorem exec_encClr_idle {s : State} (hidle : s.blk.encPhase = .idle) :
    exec .encClr s = .next (respond 0x0000#16 (s.withBlk { s.blk with txlen := 0x00#8 })) := by
  rw [exec, execEncClr, unlessBusy_idle _ hidle, settle_ok]

theorem exec_encClr_busy {s : State} (hbusy : s.blk.encPhase ≠ .idle) : exec .encClr s = .next (raiseErr .busy s) := by
  rw [exec, execEncClr, unlessBusy_busy _ hbusy, settle_ok]

/-- ENC_CLR is idempotent: idle, TX is empty after the first; busy, both are refused. -/
theorem encClr_idempotent {s t u : State} (ht : exec .encClr s = .next t) (hu : exec .encClr t = .next u) :
    u.blk = t.blk := by
  by_cases hidle : s.blk.encPhase = .idle
  · cases ht.symm.trans (exec_encClr_idle hidle)
    cases hu.symm.trans (exec_encClr_idle hidle)
    rfl
  · cases ht.symm.trans (exec_encClr_busy hidle)
    cases hu.symm.trans (exec_encClr_busy hidle)
    rfl

/-- Settles O11: a read leaves the block that settles its answer, and a clearing command finds its registers cleared. -/
theorem readsWriteNothingAndClearsRepeat : Obligations.ReadsWriteNothingAndClearsRepeat := by
  refine ⟨fun i s t hi ht => ?_, fun i s t u hi ht hu => ?_⟩
  · have hread : isRead i = true := by
      rcases hi with rfl | rfl | rfl | rfl | rfl | rfl | rfl | rfl | ⟨k, rfl⟩ | ⟨k, rfl⟩ <;> rfl
    obtain ⟨-, hwrites⟩ := exec_cases ht
    refine ⟨hwrites.eq_of_isRead hread, fun htx hrx u hu => ?_⟩
    obtain ⟨r, hr⟩ := exists_answers_of_isRead hread htx hrx
    exact hr.repeat_rsp ht hu
  · obtain rfl | rfl | rfl | rfl | rfl := hi
    case inr.inr.inl => exact encClr_idempotent ht hu
    all_goals
      cases ht
      cases hu
      rfl

end Sys2Proof.Machine
end

section
/-! SUPPORT. A frame being emitted: what ENC has still to hand over begins with the byte of its next step, and no other turn
touches the unit while it is busy. -/

namespace Sys2Proof.Machine

/-! ### The bytes still to be sent, phase by phase (R34) -/

@[simp] theorem escAll_cons (v : Byte) (p : List Byte) : escAll (v :: p) = esc v ++ escAll p := rfl

theorem esc_trigger {v : Byte} (h : needsEscape v = true) : esc v = [Config.ESC, v ^^^ Config.XMASK] := if_pos h

theorem esc_plain {v : Byte} (h : needsEscape v = false) : esc v = [v] := by simp [esc, h]

section
variable {p : List Byte} {b : Block}

theorem unsent_start (h : b.encPhase = .start) :
    unsent p b = Config.START :: b.txlen :: escAll p ++ ckBytes b := by rw [unsent, h]

theorem unsent_len (h : b.encPhase = .len) : unsent p b = b.txlen :: escAll p ++ ckBytes b := by rw [unsent, h]

theorem unsent_data (h : b.encPhase = .data) :
    unsent p b = escAll (p.drop b.encIdx.toNat) ++ ckBytes b := by rw [unsent, h]

theorem unsent_esc2 {v : Byte} {rest : List Byte} (h : b.encPhase = .esc2) (hdrop : p.drop b.encIdx.toNat = v :: rest) :
    unsent p b = (v ^^^ Config.XMASK) :: escAll rest ++ ckBytes b := by simp only [unsent, h, hdrop]

theorem unsent_ck1 (h : b.encPhase = .ck1) : unsent p b = ckBytes b := by rw [unsent, h]

theorem unsent_ck2 (h : b.encPhase = .ck2) : unsent p b = [loByte b.encCk] := by rw [unsent, h]

theorem unsent_idle (h : b.encPhase = .idle) : unsent p b = [] := by rw [unsent, h]

/-- The payload from an index inside it on: the byte TX holds there, and the rest. -/
theorem HoldsPayload.drop_eq_cons (hp : HoldsPayload b p) {i : Nat} (hi : i < b.txlen.toNat) :
    ∃ v, Memory.read? b.tx i = some v ∧ p.drop i = v :: p.drop (i + 1) := by
  obtain ⟨hlen, hbytes⟩ := hp
  have hi : i < p.length := hlen ▸ hi
  refine ⟨p[i], ?_, List.drop_eq_getElem_cons hi⟩
  rw [← List.getElem?_eq_getElem hi, ← hbytes i hi, Nat.zero_add]

/-- After a payload byte the payload behind it is still to be sent; at its end that is none of it, and CK1 is next. -/
theorem unsent_afterPayloadByte (hp : HoldsPayload b p) (hlt : b.encIdx.toNat < b.txlen.toNat) :
    unsent p b.afterPayloadByte = escAll (p.drop (b.encIdx.toNat + 1)) ++ ckBytes b := by
  have hbound := b.txlen.isLt
  have hidx : (b.encIdx + 1#8).toNat = b.encIdx.toNat + 1 := toNat_add_one (by omega)
  by_cases hend : b.encIdx.toNat + 1 = b.txlen.toNat
  · have hphase : b.afterPayloadByte.encPhase = .ck1 := if_pos hend
    rw [unsent_ck1 hphase, hend, hp.1, List.drop_length]
    rfl
  · have hphase : b.afterPayloadByte.encPhase = .data := if_neg hend
    rw [unsent_data hphase, ← hidx]
    rfl

/-- After the length byte the whole payload is still to be sent; where it is empty, CK1 is next. -/
theorem unsent_afterLenByte (hp : HoldsPayload b p) : unsent p b.afterLenByte = escAll p ++ ckBytes b := by
  by_cases hempty : b.txlen = 0x00#8
  · have hphase : b.afterLenByte.encPhase = .ck1 := if_pos hempty
    have hnil : p = [] := List.eq_nil_of_length_eq_zero (by rw [← hp.1, hempty]; rfl)
    rw [unsent_ck1 hphase, hnil]
    rfl
  · have hphase : b.afterLenByte.encPhase = .data := if_neg hempty
    rw [unsent_data hphase]
    rfl

/-- The byte a TXL step hands over is the first of those still to be sent, and the step leaves the others. -/
theorem TxlWrites.unsent_eq_cons {P Q : Params} {x : Byte} {b' : Block} (h : TxlWrites Q b x b')
    (henc : Block.EncInv P b) (hp : HoldsPayload b p) : unsent p b = x :: unsent p b' := by
  cases h with
  | start hphase => rw [unsent_start hphase, unsent_len rfl]; rfl
  | length hphase => rw [unsent_len hphase, unsent_afterLenByte hp]; rfl
  | escape y hphase hread htrigger =>
    obtain ⟨v, hv, hdrop⟩ := hp.drop_eq_cons (henc.position.idx_lt (.inl hphase))
    obtain rfl := hread v hv
    have hnext := unsent_esc2 (b := { b with encPhase := .esc2 }) rfl hdrop
    rw [unsent_data hphase, hnext, hdrop, escAll_cons, esc_trigger htrigger]
    rfl
  | plain _ hphase hread hplain =>
    have hlt := henc.position.idx_lt (.inl hphase)
    obtain ⟨v, hv, hdrop⟩ := hp.drop_eq_cons hlt
    obtain rfl := hread v hv
    rw [unsent_data hphase, unsent_afterPayloadByte hp hlt, hdrop, escAll_cons, esc_plain hplain]
    rfl
  | escaped y hphase hread =>
    have hlt := henc.position.idx_lt (.inr hphase)
    obtain ⟨v, hv, hdrop⟩ := hp.drop_eq_cons hlt
    obtain rfl := hread v hv
    rw [unsent_esc2 hphase hdrop, unsent_afterPayloadByte hp hlt]
    rfl
  | firstCk hphase => rw [unsent_ck1 hphase, unsent_ck2 rfl]; rfl
  | lastCk hphase => rw [unsent_ck2 hphase, unsent_idle rfl]

/-! ### What leaves the frame alone -/

theorem SameEnc.holdsPayload {b' : Block} (h : SameEnc b b') (hp : HoldsPayload b p) : HoldsPayload b' p := by
  obtain ⟨htxlen, -, -, -, htx⟩ := h
  exact ⟨htxlen ▸ hp.1, fun j hj => (htx _).trans (hp.2 j hj)⟩

theorem SameEnc.unsent_eq {b' : Block} (h : SameEnc b b') : unsent p b' = unsent p b := by
  obtain ⟨htxlen, hidx, hck, hphase, -⟩ := h
  simp only [unsent, ckBytes, htxlen, hidx, hck, hphase]

end

/-- While a frame is being emitted no command but SRST writes a register of ENC or TX (R125 to R127). -/
theorem CommandWrites.sameEnc_of_busy {P : Params} {b b' : Block} {i : Instr} (h : CommandWrites P b i b')
    (hbusy : b.encPhase ≠ .idle) (hsrst : i ≠ .srst) : SameEnc b b' := by
  cases h with
  | srst => exact absurd rfl hsrst
  | encClr hidle | encLoad _ hidle | encSend _ hidle => exact absurd hidle hbusy
  | nothing | ckClr | ckByte | decNext | decAbort | decClrz => exact ⟨rfl, rfl, rfl, rfl, fun _ => rfl⟩

/-- While a frame is being emitted the turns of TXL, SRST and a hard reset alone touch unit ENC. -/
theorem StepWrites.sameEnc_of_busy {s : State} {turn : Turn} {b : Block} (h : StepWrites s turn b)
    (hbusy : s.blk.encPhase ≠ .idle) (htxl : turn ≠ .txl) (hlow : turn ≠ .rstLow) (hsrst : turn ≠ .cmd 0x0100#16) :
    SameEnc s.blk b := by
  cases h with
  | nothing => exact .refl _
  | command w i _ hword hb =>
    refine hb.sameEnc_of_busy hbusy ?_
    rintro rfl
    exact hsrst (hword ▸ rfl)
  | rxl w q _ _ _ hb => exact hb.sameEnc
  | txl => exact absurd rfl htxl
  | hardReset => exact absurd rfl hlow

/-- HOST's turn hands no byte to TXL. -/
theorem hostTurn_txLog {w : Word} {s t : State} (h : hostTurn w s = .next t) : t.txLog = s.txLog := by
  rcases Bool.eq_false_or_eq_true s.rstN with hrst | hrst
  · rw [hostTurn_enabled hrst] at h
    obtain ⟨u, hu, rfl⟩ := mapNext_eq_next h
    rw [logCommand_frame]
    unfold runWord at hu
    split at hu
    · obtain ⟨⟨-, -, -, -, -, -, htx⟩, -⟩ := exec_cases hu
      exact htx
    · cases hu
      rfl
  · rw [hostTurn_inReset hrst] at h
    cases h
    rfl

/-- A turn that is not TXL's hands no byte to TXL. -/
theorem takeTurn_txLog {turn : Turn} {s t : State} (htxl : turn ≠ .txl) (h : takeTurn turn s = .next t) :
    t.txLog = s.txLog := by
  cases turn with
  | txl => exact absurd rfl htxl
  | rstLow | rstHigh => cases h; rfl
  | rxl =>
    obtain rfl | ⟨w, q, -, -, -, ⟨-, -, -, -, -, -, htx⟩, -⟩ := rxlTurn_cases (settle_eq_next h)
    · rfl
    · exact htx
  | cmd w => exact hostTurn_txLog h

/-- Settles O34: TXL's turn takes the first byte of what is still to be sent, and every other turn leaves ENC as it is. -/
theorem emissionIsContiguous : Obligations.EmissionIsContiguous := by
  intro s t p turn rest hinv hs hlow hsrst hbusy hp h
  obtain ⟨-, henc, -⟩ := Block.inv_iff.1 hinv.block
  by_cases htxl : turn = .txl
  · subst htxl
    rw [step_turn hs] at h
    obtain ⟨rfl, hwait⟩ | ⟨x, -, -, ⟨-, -, -, -, -, -, htx⟩, hwrites⟩ := txlTurn_cases (settle_eq_next h)
    · have hrst : s.rstN = false := hwait.resolve_right hbusy
      exact ⟨hp, rfl, rfl, fun _ htrue => absurd (hrst.symm.trans htrue) (by simp)⟩
    · have hwrites : TxlWrites s.params s.blk x t.blk := hwrites
      have hnext : unsent p s.blk = x :: unsent p t.blk := hwrites.unsent_eq_cons henc hp
      have hlog : t.txLog = s.txLog ++ [x] := htx
      refine ⟨?_, ?_, ?_, fun _ _ => ?_⟩
      · rw [hwrites.blk_eq]
        exact hp
      · rw [hwrites.blk_eq]
      · rw [hlog, hnext, List.append_assoc, List.singleton_append]
      · rw [hnext, List.length_cons]
  · obtain ⟨-, -, -, hwrites⟩ := step_cases hs h
    have hsame := hwrites.sameEnc_of_busy hbusy htxl hlow hsrst
    rw [step_turn hs] at h
    have hlog : t.txLog = s.txLog := takeTurn_txLog (s := beginStep rest s) htxl h
    refine ⟨hsame.holdsPayload hp, ?_, by rw [hlog, hsame.unsent_eq], fun h => absurd h htxl⟩
    obtain ⟨-, -, hck, -⟩ := hsame
    exact hck

end Sys2Proof.Machine
end

section
/-! SUPPORT. The decoder and the encoder as inverses of each other, the decoder against the opcode map, and the count of the
words of each form. -/

namespace Sys2Proof.Machine

/-! ### Decoding the word of a command (R82 to R84) -/

theorem isOperandCommand_ckByte : IsOperandCommand 0x11#8 .ckByte := fun x => by
  rw [decode, opField_pack, immField_pack]; rfl

theorem isOperandCommand_encLoad : IsOperandCommand 0x21#8 .encLoad := fun x => by
  rw [decode, opField_pack, immField_pack]; rfl

theorem isOperandCommand_encRdbuf : IsOperandCommand 0x25#8 fun x => .encRdbuf x.toNat := fun x => by
  rw [decode, opField_pack, immField_pack]; rfl

theorem isOperandCommand_decRdbuf : IsOperandCommand 0x32#8 fun x => .decRdbuf x.toNat := fun x => by
  rw [decode, opField_pack, immField_pack]; rfl

/-- The word of a form Z command decodes to it. -/
theorem decode_encode_of_formZ {i : Instr} (hz : formOf i = .z) : decode (encode i) = .ok i := by
  have himm : operandOf i = 0x00#8 := by
    cases i with
    | ckByte | encLoad | encRdbuf | decRdbuf => cases hz
    | nop | srst | cfg | status | ckClr | ckRd | encClr | encSend | encRdcnt | encRdck | decNext | decAbort | decRdck
      | decRdcnt | decClrz => rfl
  rw [encode, himm, decode_pack_of_formZ hz]
  exact decodeZ_eq_ok.2 ⟨rfl, rfl⟩

/-- An index below 256 comes back from its byte (R83). -/
theorem toNat_ofNat_of_lt {k : Nat} (hk : k < 256) : (BitVec.ofNat 8 k).toNat = k := by
  rw [BitVec.toNat_ofNat]
  exact Nat.mod_eq_of_lt hk

/-- Settles O1: the opcode names the command, and the operand byte gives back the operand. -/
theorem decodeOfEncode : Obligations.DecodeOfEncode := by
  intro i hwf
  cases i with
  | ckByte d => exact isOperandCommand_ckByte d
  | encLoad d => exact isOperandCommand_encLoad d
  | encRdbuf k =>
    exact (isOperandCommand_encRdbuf _).trans
      (congrArg (Except.ok ∘ Instr.encRdbuf) (toNat_ofNat_of_lt (of_decide_eq_true hwf)))
  | decRdbuf k =>
    exact (isOperandCommand_decRdbuf _).trans
      (congrArg (Except.ok ∘ Instr.decRdbuf) (toNat_ofNat_of_lt (of_decide_eq_true hwf)))
  | nop | srst | cfg | status | ckClr | ckRd | encClr | encSend | encRdcnt | encRdck | decNext | decAbort | decRdck
    | decRdcnt | decClrz => exact decode_encode_of_formZ rfl

/-- A command that a word decodes to is well formed: its index was read from a byte. -/
theorem wellFormed_of_decode {w : Word} {i : Instr} (h : decode w = .ok i) : WellFormed i := by
  have hw := encode_eq_of_decode h
  subst hw
  cases i with
  | encRdbuf k =>
    have hk : (BitVec.ofNat 8 k).toNat = k :=
      Instr.encRdbuf.inj (Except.ok.inj ((isOperandCommand_encRdbuf _).symm.trans h))
    exact decide_eq_true (hk ▸ BitVec.isLt _)
  | decRdbuf k =>
    have hk : (BitVec.ofNat 8 k).toNat = k :=
      Instr.decRdbuf.inj (Except.ok.inj ((isOperandCommand_decRdbuf _).symm.trans h))
    exact decide_eq_true (hk ▸ BitVec.isLt _)
  | nop | srst | cfg | status | ckClr | ckByte | ckRd | encClr | encLoad | encSend | encRdcnt | encRdck | decNext
    | decAbort | decRdck | decRdcnt | decClrz => rfl

/-- Settles O2: both bytes of the word are read, and each comes back in the command's own word. -/
theorem encodeOfDecode : Obligations.EncodeOfDecode := fun _ _ h => ⟨wellFormed_of_decode h, encode_eq_of_decode h⟩

/-! ### The rows of the opcode map (R84) -/

/-- Every command's row is listed, and accepts the command's word. -/
theorem rowListed (i : Instr) : Laws.RowListed.Statement i := by
  cases i with
  | nop => exact Laws.RowListed.nop
  | srst => exact Laws.RowListed.srst
  | cfg => exact Laws.RowListed.cfg
  | status => exact Laws.RowListed.status
  | ckClr => exact Laws.RowListed.ckClr
  | ckByte d => exact Laws.RowListed.ckByte d
  | ckRd => exact Laws.RowListed.ckRd
  | encClr => exact Laws.RowListed.encClr
  | encLoad d => exact Laws.RowListed.encLoad d
  | encSend => exact Laws.RowListed.encSend
  | encRdcnt => exact Laws.RowListed.encRdcnt
  | encRdck => exact Laws.RowListed.encRdck
  | encRdbuf k => exact Laws.RowListed.encRdbuf k
  | decNext => exact Laws.RowListed.decNext
  | decAbort => exact Laws.RowListed.decAbort
  | decRdbuf k => exact Laws.RowListed.decRdbuf k
  | decRdck => exact Laws.RowListed.decRdck
  | decRdcnt => exact Laws.RowListed.decRdcnt
  | decClrz => exact Laws.RowListed.decClrz

/-- One command of every row: the form Z commands, and those of forms B and I with operand 0. -/
def rowCommands : List Instr := zCommands ++ operandCommands 0x00#8

/-- Every row of the map is the row of a command. -/
theorem exists_rowOf_eq {r : OpRow} (hr : r ∈ opcodeMap) : ∃ i ∈ rowCommands, rowOf i = r := by
  have h : ∀ r ∈ opcodeMap, r ∈ rowCommands.map rowOf := by decide
  exact List.mem_map.1 (h r hr)

/-- The row of a form Z command accepts its word alone. -/
theorem accepts_rowOf_of_formZ {i : Instr} {w : Word} (hz : formOf i = .z) :
    (rowOf i).accepts w = true ↔ w = pack (opcodeOf i) 0x00#8 := by
  have hmask : w &&& 0xFFFF#16 = w := BitVec.and_allOnes
  simp [OpRow.accepts, rowOf, formMask, hz, hmask]

/-- The row of a form B or I command accepts the words with its opcode. -/
theorem accepts_rowOf_of_operand {i : Instr} {w : Word} (hz : formOf i ≠ .z) :
    (rowOf i).accepts w = true ↔ opField w = opcodeOf i := by
  have hmask : formMask (formOf i) = 0xFF00#16 := by
    cases h : formOf i with
    | z => exact absurd h hz
    | b | i => rfl
  have hand : w &&& 0xFF00#16 = pack (opField w) 0x00#8 := by
    conv_lhs => rw [← pack_hiByte_loByte w]
    exact Laws.pack_and_highMask _ _
  simp only [OpRow.accepts, rowOf, hmask, hand, decide_eq_true_eq]
  exact ⟨fun h => by simpa using congrArg opField h, fun h => by rw [h]⟩

/-- A word that a command's row accepts decodes to a command of that row. -/
theorem exists_decode_of_accepts {i : Instr} {w : Word} (h : (rowOf i).accepts w = true) :
    ∃ j, decode w = .ok j ∧ rowOf j = rowOf i := by
  by_cases hz : formOf i = .z
  · rw [(accepts_rowOf_of_formZ hz).1 h, decode_pack_of_formZ hz]
    exact ⟨i, decodeZ_eq_ok.2 ⟨rfl, rfl⟩, rfl⟩
  · have hw : pack (opcodeOf i) (immField w) = w := (accepts_rowOf_of_operand hz).1 h ▸ pack_hiByte_loByte w
    rw [← hw]
    cases i with
    | ckByte d => exact ⟨_, isOperandCommand_ckByte _, rfl⟩
    | encLoad d => exact ⟨_, isOperandCommand_encLoad _, rfl⟩
    | encRdbuf k => exact ⟨_, isOperandCommand_encRdbuf _, rfl⟩
    | decRdbuf k => exact ⟨_, isOperandCommand_decRdbuf _, rfl⟩
    | nop | srst | cfg | status | ckClr | ckRd | encClr | encSend | encRdcnt | encRdck | decNext | decAbort | decRdck
      | decRdcnt | decClrz => exact absurd rfl hz

/-- A word decodes to a command of the row that accepts it. -/
theorem exists_decode_of_mem {r : OpRow} {w : Word} (hr : r ∈ opcodeMap) (h : r.accepts w = true) :
    ∃ i, decode w = .ok i ∧ rowOf i = r := by
  obtain ⟨i, -, rfl⟩ := exists_rowOf_eq hr
  exact exists_decode_of_accepts h

/-- The row of the command that a word decodes to is listed and accepts the word. -/
theorem rowOf_of_decode {w : Word} {i : Instr} (h : decode w = .ok i) :
    rowOf i ∈ opcodeMap ∧ (rowOf i).accepts w = true :=
  encode_eq_of_decode h ▸ rowListed i

/-- Settles O3: a word and a row meet exactly when the word decodes to a command of the row; as a word decodes to one
command only, it meets one row only. -/
theorem decodeFollowsOpcodeMap : Obligations.DecodeFollowsOpcodeMap := by
  refine fun w => ⟨fun i h => rowOf_of_decode h, fun r hr h => exists_decode_of_mem hr h, ?_, ?_, ?_⟩
  · intro r hr r' hr' h h'
    obtain ⟨i, hi, rfl⟩ := exists_decode_of_mem hr h
    obtain ⟨j, hj, rfl⟩ := exists_decode_of_mem hr' h'
    rw [Except.ok.inj (hi.symm.trans hj)]
  · intro hnone
    cases hd : decode w with
    | error e => exact ⟨e, rfl⟩
    | ok i =>
      obtain ⟨hmem, hacc⟩ := rowOf_of_decode hd
      exact absurd ((hnone _ hmem).symm.trans hacc) (by simp)
  · rintro ⟨e, he⟩ r hr
    rw [Bool.eq_false_iff]
    intro h
    obtain ⟨i, hi, -⟩ := exists_decode_of_mem hr h
    cases hi.symm.trans he

/-! ### Counting the words of each form (R85) -/

/-- The form of the commands with an opcode; `none` for an opcode that is not in the map. -/
def opForm (op : Byte) : Option Form := (rowCommands.find? fun i => opcodeOf i = op).map formOf

theorem opForm_eq_some {op : Byte} {f : Form} (h : opForm op = some f) : ∃ i, opcodeOf i = op ∧ formOf i = f := by
  obtain ⟨i, hi, hf⟩ := Option.map_eq_some_iff.1 h
  exact ⟨i, of_decide_eq_true (List.find?_some hi :), hf⟩

/-- An opcode without a form is the opcode of no command. -/
theorem opForm_eq_none {op : Byte} (h : opForm op = none) (i : Instr) : opcodeOf i ≠ op := by
  have hnone := List.find?_eq_none.1 (Option.map_eq_none_iff.1 h)
  obtain ⟨j, hj, hrow⟩ := exists_rowOf_eq (rowListed i).1
  have hop : opcodeOf j = opcodeOf i := by simpa [rowOf] using congrArg (opField ∘ OpRow.pattern) hrow
  exact fun hi => hnone j hj (decide_eq_true (hop.trans hi))

/-- The form of the command that a word decodes to; `none` for an illegal word. -/
def formOfWord (w : Word) : Option Form := (decode w).toOption.map formOf

theorem formOfWord_of_ok {w : Word} {i : Instr} (h : decode w = .ok i) : formOfWord w = some (formOf i) := by
  rw [formOfWord, h]
  rfl

theorem formOfWord_of_error {w : Word} {e : DecodeError} (h : decode w = .error e) : formOfWord w = none := by
  rw [formOfWord, h]
  rfl

/-- The form of a word is that of its opcode; but where the opcode is of form Z, an operand byte that is not 0 makes the
word illegal. -/
theorem formOfWord_pack (op x : Byte) :
    formOfWord (pack op x) = if opForm op = some .z ∧ x ≠ 0x00#8 then none else opForm op := by
  cases hop : opForm op with
  | none =>
    have hword : formOfWord (pack op x) = none := by
      cases hd : decode (pack op x) with
      | error e => exact formOfWord_of_error hd
      | ok i =>
        have hi : opcodeOf i = op := by simpa [encode] using congrArg opField (encode_eq_of_decode hd)
        exact absurd hi (opForm_eq_none hop i)
    simp [hword]
  | some f =>
    obtain ⟨i, rfl, rfl⟩ := opForm_eq_some hop
    by_cases hz : formOf i = .z
    · have hd := decode_pack_of_formZ hz x
      by_cases hx : x = 0x00#8
      · rw [formOfWord_of_ok (hd.trans (decodeZ_eq_ok.2 ⟨hx, rfl⟩))]
        simp [hx]
      · rw [formOfWord_of_error (hd.trans (if_neg hx))]
        simp [hz, hx]
    · have hacc : (rowOf i).accepts (pack (opcodeOf i) x) = true :=
        (accepts_rowOf_of_operand hz).2 (opField_pack _ _)
      obtain ⟨j, hj, hrow⟩ := exists_decode_of_accepts hacc
      have hform : formOf j = formOf i := congrArg OpRow.form hrow
      rw [formOfWord_of_ok hj, hform]
      simp [hz]

/-- How many of the 256 words with one opcode have a form that `g` asks for. -/
def countOfOp (g : Option Form → Bool) : Option Form → Nat
  | some .z => (g (some .z)).toNat + 255 * (g none).toNat
  | f => 256 * (g f).toNat

theorem countP_range_const (n : Nat) (b : Bool) : (List.range n).countP (fun _ => b) = n * b.toNat := by
  cases b <;> simp

/-- One of the 256 operand bytes is 0. -/
theorem countP_range_zero (x y : Bool) :
    (List.range 256).countP (fun imm8 => if BitVec.ofNat 8 imm8 ≠ 0x00#8 then x else y) = y.toNat + 255 * x.toNat := by
  have hne : ∀ k ∈ List.range 255, BitVec.ofNat 8 (k + 1) ≠ 0x00#8 := by
    intro k hk h
    have h := congrArg BitVec.toNat h
    rw [toNat_ofNat_of_lt (by have := List.mem_range.1 hk; omega)] at h
    cases h
  have hrest : (List.range 255).countP (fun k => if BitVec.ofNat 8 (k + 1) ≠ 0x00#8 then x else y) = 255 * x.toNat := by
    rw [← countP_range_const]
    exact List.countP_congr fun k hk => by rw [if_pos (hne k hk)]
  rw [List.range_succ_eq_map, List.countP_cons, List.countP_map]
  simp only [Function.comp_def, Nat.succ_eq_add_one, hrest]
  cases y
  · simp
  · simp [Nat.add_comm]

theorem countP_formOfWord (g : Option Form → Bool) (op : Byte) :
    (List.range 256).countP (fun imm8 => g (formOfWord (pack op (BitVec.ofNat 8 imm8)))) = countOfOp g (opForm op) := by
  simp only [formOfWord_pack]
  cases hop : opForm op with
  | none => simpa [countOfOp] using countP_range_const 256 (g none)
  | some f =>
    cases f with
    | b | i => simpa [countOfOp] using countP_range_const 256 _
    | z =>
      simp only [true_and, countOfOp, apply_ite g]
      exact countP_range_zero _ _

/-- The forms of the 256 opcodes in order (R84), as runs of equal forms. -/
def formRuns : List (Nat × Option Form) :=
  [(4, some .z), (12, none), (1, some .z), (1, some .b), (1, some .z), (13, none), (1, some .z), (1, some .b),
    (3, some .z), (1, some .i), (10, none), (2, some .z), (1, some .i), (3, some .z), (202, none)]

theorem map_opForm_range : (List.range 256).map (fun op => opForm (BitVec.ofNat 8 op)) =
    formRuns.flatMap fun r => List.replicate r.1 r.2 := by
  decide +kernel

/-- How many of the 65536 words `ask` accepts, opcode by opcode, as R85 counts them. -/
def countWords (ask : Word → Bool) : Nat :=
  ((List.range 256).map fun op =>
    (List.range 256).countP fun imm8 => ask (pack (BitVec.ofNat 8 op) (BitVec.ofNat 8 imm8))).sum

/-- How many words have a form that `g` asks for. -/
theorem countWords_formOfWord (g : Option Form → Bool) :
    countWords (fun w => g (formOfWord w)) =
      15 * (g (some .z)).toNat + 512 * (g (some .b)).toNat + 512 * (g (some .i)).toNat + 64497 * (g none).toNat := by
  have hmap : countWords (fun w => g (formOfWord w)) =
      (((List.range 256).map fun op => opForm (BitVec.ofNat 8 op)).map (countOfOp g)).sum := by
    simp only [countWords, countP_formOfWord, List.map_map, Function.comp_def]
  rw [hmap, map_opForm_range]
  simp only [formRuns, List.flatMap_cons, List.flatMap_nil, List.map_append, List.map_replicate, List.map_nil,
    List.sum_append, List.sum_replicate, List.sum_nil, countOfOp, smul_eq_mul]
  ring

/-- A count that asks a word for its form alone. -/
theorem countWords_eq {ask : Word → Bool} (g : Option Form → Bool) (h : ∀ w, ask w = g (formOfWord w)) :
    countWords ask =
      15 * (g (some .z)).toNat + 512 * (g (some .b)).toNat + 512 * (g (some .i)).toNat + 64497 * (g none).toNat :=
  (congrArg countWords (funext h)).trans (countWords_formOfWord g)

/-- Settles O4: each count asks a word for its form, and the two bytes of a word place it in the listing. -/
theorem countOfCommandWords : Obligations.CountOfCommandWords := by
  unfold Obligations.CountOfCommandWords
  intro count
  have hcount : count = countWords := rfl
  rw [hcount]
  refine ⟨countWords_eq (fun f => f = some .z) fun w => ?_,
    countWords_eq (fun f => f ≠ none ∧ f ≠ some .z) fun w => ?_, countWords_eq (fun f => f = none) fun w => ?_,
    fun w => ⟨(hiByte w).toNat, (loByte w).toNat, (hiByte w).isLt, (loByte w).isLt, by simp⟩⟩
  · cases hd : decode w <;> simp [formOfWord, hd, Except.toOption]
  · cases hd : decode w <;> simp [formOfWord, hd, Except.toOption]
  · cases hd : decode w <;> simp [formOfWord, isCommand, hd, Except.toOption]

/-- Settles O5: the decoder, run on the words. -/
theorem sampleWordsDecode : Obligations.SampleWordsDecode := by
  unfold Obligations.SampleWordsDecode
  decide

end Sys2Proof.Machine
end

section
/-! SUPPORT. The assembler on its own text: what a line is cut into, and what each part reads as. -/

namespace Sys2Proof.Machine

/-! ### The parts of a line (R87) -/

/-- The characters that neither start a comment nor separate two parts. -/
def isPlain (c : Char) : Bool := c != ';' && !isGap c

theorem isPlain_iff {c : Char} : isPlain c = true ↔ c ≠ ';' ∧ isGap c = false := by
  simp [isPlain]

/-- A text without `;` has no comment to strip. -/
theorem stripComment_eq_self {cs : List Char} (h : ∀ c ∈ cs, c ≠ ';') : stripComment cs = cs :=
  List.takeWhile_eq_self_iff.2 fun c hc => by simpa using h c hc

/-- Plain characters go on with the part being read. -/
theorem splitParts_plain (acc cs rest : List Char) (h : ∀ c ∈ cs, isPlain c = true) :
    splitParts acc (cs ++ rest) = splitParts (cs.reverse ++ acc) rest := by
  induction cs generalizing acc with
  | nil => rfl
  | cons c cs ih =>
    obtain ⟨hc, hcs⟩ := List.forall_mem_cons.1 h
    simp [splitParts, (isPlain_iff.1 hc).2, ih _ hcs]

/-- The last part of a line. -/
theorem splitParts_last {m : List Char} (hm : ∀ c ∈ m, isPlain c = true) (hne : m ≠ []) : splitParts [] m = [m] := by
  have h := splitParts_plain [] m [] hm
  simpa [splitParts, hne] using h

/-- A part that a space ends. -/
theorem splitParts_space {m : List Char} (hm : ∀ c ∈ m, isPlain c = true) (hne : m ≠ []) (cs : List Char) :
    splitParts [] (m ++ ' ' :: cs) = m :: splitParts [] cs := by
  have h := splitParts_plain [] m (' ' :: cs) hm
  simpa [splitParts, isGap, hne] using h

/-- A line of one part. -/
theorem parseLine_one (P : Params) {m : List Char} (hm : ∀ c ∈ m, isPlain c = true) (hne : m ≠ []) :
    parseLine P m = parseParts P [m] := by
  rw [parseLine, stripComment_eq_self fun c hc => (isPlain_iff.1 (hm c hc)).1, splitParts_last hm hne]

/-- A line of two parts with a space between them. -/
theorem parseLine_two (P : Params) {m op : List Char} (hm : ∀ c ∈ m, isPlain c = true) (hne : m ≠ [])
    (hop : ∀ c ∈ op, isPlain c = true) (hne' : op ≠ []) : parseLine P (m ++ ' ' :: op) = parseParts P [m, op] := by
  have hstrip : stripComment (m ++ ' ' :: op) = m ++ ' ' :: op := by
    refine stripComment_eq_self fun c hc => ?_
    rcases List.mem_append.1 hc with hc | hc
    · exact (isPlain_iff.1 (hm c hc)).1
    · rcases List.mem_cons.1 hc with rfl | hc
      · decide
      · exact (isPlain_iff.1 (hop c hc)).1
  rw [parseLine, hstrip, splitParts_space hm hne, splitParts_last hop hne']

/-! ### An operand as `0xHH` (R87) -/

/-- The character of a hexadecimal digit is plain and reads as the digit. -/
theorem hexChar_digit {n : Nat} (hn : n < 16) : isPlain (hexChar n) = true ∧ hexDigit (hexChar n) = some n := by
  interval_cases n <;> decide

theorem showImm_plain (b : Byte) : ∀ c ∈ showImm b, isPlain c = true := by
  have hb := b.isLt
  obtain ⟨hhi, -⟩ := hexChar_digit (n := b.toNat / 16) (by omega)
  obtain ⟨hlo, -⟩ := hexChar_digit (n := b.toNat % 16) (by omega)
  simp only [showImm, List.forall_mem_cons, hhi, hlo, List.not_mem_nil, false_imp_iff, implies_true, and_true]
  decide

/-- `0xHH` is read digit by digit. -/
theorem parseImm_hex {a b : Char} {m n : Nat} (ha : hexDigit a = some m) (hb : hexDigit b = some n) :
    parseImm ['0', 'x', a, b] = some (BitVec.ofNat 8 (m * 16 + n)) := by
  have hdigits : digitsValue 16 hexDigit 0 [a, b] = some (m * 16 + n) := by
    simp only [digitsValue, ha, hb, Nat.zero_mul, Nat.zero_add]
  exact congrArg (Option.map (BitVec.ofNat 8)) hdigits

/-- An operand reads back as the byte. -/
theorem parseImm_showImm (b : Byte) : parseImm (showImm b) = some b := by
  have hb := b.isLt
  obtain ⟨-, hhi⟩ := hexChar_digit (n := b.toNat / 16) (by omega)
  obtain ⟨-, hlo⟩ := hexChar_digit (n := b.toNat % 16) (by omega)
  have hvalue : b.toNat / 16 * 16 + b.toNat % 16 = b.toNat := by omega
  rw [showImm, parseImm_hex hhi hlo, hvalue, BitVec.ofNat_toNat, BitVec.setWidth_eq]

/-! ### A mnemonic (R84) -/

/-- A mnemonic is one part of a line, and none of the names whose operands are read in another way. -/
def isCommandName (m : List Char) : Bool :=
  m.all isPlain && m != [] && m != "CK_SEQ".toList && m != "ENC_FRAME".toList && m != ".word".toList

theorem isCommandName_iff {m : List Char} : isCommandName m = true ↔ (∀ c ∈ m, isPlain c = true) ∧ m ≠ [] ∧
    m ≠ "CK_SEQ".toList ∧ m ≠ "ENC_FRAME".toList ∧ m ≠ ".word".toList := by
  simp only [isCommandName, Bool.and_eq_true, List.all_eq_true, bne_iff_ne, and_assoc]

theorem isCommandName_mnemonic (i : Instr) : isCommandName (mnemonic i) = true := by
  cases i <;> rfl

/-- The mnemonic of a form Z command names it. -/
theorem parseZ_mnemonic {i : Instr} (hz : formOf i = .z) : parseZ (mnemonic i) = some (.cmd i) := by
  cases i with
  | ckByte | encLoad | encRdbuf | decRdbuf => cases hz
  | nop | srst | cfg | status | ckClr | ckRd | encClr | encSend | encRdcnt | encRdck | decNext | decAbort | decRdck
    | decRdcnt | decClrz => decide

/-- The mnemonic and the operand of a form B or I command name it. -/
theorem find_operandCommands {i : Instr} (hwf : WellFormed i) (hz : formOf i ≠ .z) :
    (operandCommands (operandOf i)).find? (fun j => mnemonic j = mnemonic i) = some i := by
  cases i with
  | ckByte d => rfl
  | encLoad d => rfl
  | encRdbuf k => exact congrArg (some ∘ Instr.encRdbuf) (toNat_ofNat_of_lt (of_decide_eq_true hwf))
  | decRdbuf k => exact congrArg (some ∘ Instr.decRdbuf) (toNat_ofNat_of_lt (of_decide_eq_true hwf))
  | nop | srst | cfg | status | ckClr | ckRd | encClr | encSend | encRdcnt | encRdck | decNext | decAbort | decRdck
    | decRdcnt | decClrz => exact absurd rfl hz

/-- Settles O6: a command's text is its mnemonic, alone or with its operand behind a space, and each part reads back. -/
theorem assemblerReadsWhatItWrites : Obligations.AssemblerReadsWhatItWrites := by
  intro P i hwf
  obtain ⟨hm, hne, hseq, hframe, hword⟩ := isCommandName_iff.1 (isCommandName_mnemonic i)
  by_cases hz : formOf i = .z
  · have hshow : showInstr i = mnemonic i := by simp [showInstr, hz]
    rw [hshow, parseLine_one P hm hne, parseParts, if_neg hseq, if_neg hframe]
    exact parseZ_mnemonic hz
  · have hshow : showInstr i = mnemonic i ++ ' ' :: showImm (operandOf i) := by
      unfold showInstr
      split
      · contradiction
      · rfl
      · rfl
    rw [hshow, parseLine_two P hm hne (showImm_plain _) (by simp [showImm]), parseParts, if_neg hseq, if_neg hframe]
    simp only [if_neg hword, parseImm_showImm]
    rw [find_operandCommands hwf hz]
    rfl

end Sys2Proof.Machine
end

section
/-! SUPPORT. Sequences of commands that all complete, told by the blocks between them; CK_SEQ and ENC_FRAME as such
sequences. -/

namespace Sys2Proof.Machine

/-! ### Turns played one after another -/

/-- The first of several turns played is a step, and the others are played after it. -/
theorem playTurns_step {turn : Turn} {ts : List Turn} {s u : State}
    (h : step { s with sched := turn :: (ts ++ s.sched) } = .next { u with sched := ts ++ u.sched }) :
    playTurns (turn :: ts) s = playTurns ts u := by
  have h : takeTurn turn (beginStep (ts ++ s.sched) s) = .next { u with sched := ts ++ u.sched } := h
  rw [playTurns_cons, h]
  rfl

theorem playTurns_one (turn : Turn) (s : State) : playTurns [turn] s = step { s with sched := turn :: s.sched } :=
  run_one _

/-! ### A command that completes -/

/-- The state after HOST's command `w` completed with data `v` and left the block `b`. -/
def State.answered (s : State) (w : Word) (v : Word) (b : Block) : State :=
  { s with blk := b, rsp := some ⟨.ok, v⟩, cmdLog := s.cmdLog ++ [(w, ⟨.ok, v⟩)] }

/-- At capacities `P`, from the block `b`, the command completes with data `v` and leaves the block `b'`. -/
def Completes (P : Params) (b : Block) (i : Instr) (v : Word) (b' : Block) : Prop :=
  ∀ s : State, s.params = P → s.blk = b → exec i s = .next (respond v (s.withBlk b'))

/-- The commands of a sequence complete one after another, each with its data, from the first block to the last. -/
inductive CompleteAll (P : Params) : Block → List (Instr × Word) → Block → Prop where
  | nil (b : Block) : CompleteAll P b [] b
  | cons {b b' b'' : Block} {i : Instr} {v : Word} {cs : List (Instr × Word)} (hwf : WellFormed i)
      (hfirst : Completes P b i v b') (hrest : CompleteAll P b' cs b'') : CompleteAll P b ((i, v) :: cs) b''

theorem CompleteAll.single {P : Params} {b b' : Block} {i : Instr} {v : Word} (hwf : WellFormed i)
    (h : Completes P b i v b') : CompleteAll P b [(i, v)] b' :=
  .cons hwf h (.nil b')

theorem CompleteAll.append {P : Params} {b b' b'' : Block} {cs ds : List (Instr × Word)} (h : CompleteAll P b cs b')
    (h' : CompleteAll P b' ds b'') : CompleteAll P b (cs ++ ds) b'' := by
  induction h with
  | nil => exact h'
  | cons hwf hfirst _ ih => exact .cons hwf hfirst (ih h')

/-- The state after a sequence of commands that completed: every command is logged, and the last response is on the port. -/
def State.answeredAll (s : State) (cs : List (Instr × Word)) (b : Block) : State :=
  { s with
    blk := b
    rsp := (cs.getLast?.map fun c => ⟨.ok, c.2⟩).or s.rsp
    cmdLog := s.cmdLog ++ cs.map fun c => (encode c.1, ⟨.ok, c.2⟩) }

/-- A step on the word of a command that completes. -/
theorem step_of_completes {s : State} {i : Instr} {v : Word} {b : Block} {rest : List Turn} (hrst : s.rstN = true)
    (hwf : WellFormed i) (h : Completes s.params s.blk i v b) :
    step { s with sched := .cmd (encode i) :: rest } = .next { s.answered (encode i) v b with sched := rest } := by
  rw [stepRunsDecodedCommand { s with sched := .cmd (encode i) :: rest } (encode i) rest i rfl hrst
    (decodeOfEncode i hwf), h { s with sched := rest, rsp := none } rfl rfl]
  rfl

/-- A first command and the rest of a sequence leave the state of the whole sequence. -/
theorem State.answeredAll_cons (s : State) (i : Instr) (v : Word) (cs : List (Instr × Word)) (b b' : Block) :
    (s.answered (encode i) v b).answeredAll cs b' = s.answeredAll ((i, v) :: cs) b' := by
  have hrsp : (cs.getLast?.map fun c => (⟨.ok, c.2⟩ : Response)).or (some ⟨.ok, v⟩) =
      (((i, v) :: cs).getLast?.map fun c => ⟨.ok, c.2⟩).or s.rsp := by
    rw [List.getLast?_cons]
    cases cs.getLast? <;> rfl
  simp only [State.answeredAll, State.answered, hrsp, List.map_cons, List.append_assoc, List.singleton_append]

/-- The response on the port is that of the last command. -/
theorem State.answeredAll_concat_rsp (s : State) (cs : List (Instr × Word)) (c : Instr × Word) (b : Block) :
    (s.answeredAll (cs ++ [c]) b).rsp = some ⟨.ok, c.2⟩ := by
  simp [State.answeredAll]

/-- Playing a sequence of commands that complete (R24: HOST's turns alone). -/
theorem playTurns_of_completeAll {P : Params} {b b' : Block} {cs : List (Instr × Word)} (h : CompleteAll P b cs b')
    {s : State} (hrst : s.rstN = true) (hparams : s.params = P) (hblk : s.blk = b) :
    playTurns (cs.map fun c => .cmd (encode c.1)) s = .next (s.answeredAll cs b') := by
  induction h generalizing s with
  | nil =>
    subst hblk
    simp [State.answeredAll]
  | @cons _ b₁ b₂ i v cs hwf hfirst _ ih =>
    subst hblk hparams
    rw [List.map_cons, playTurns_step (step_of_completes hrst hwf hfirst), ih (s := s.answered _ v b₁) hrst rfl rfl,
      State.answeredAll_cons]

/-! ### CK_SEQ (R88, R103) -/

theorem completes_ckClr (P : Params) (b : Block) : Completes P b .ckClr 0x0000#16 (b.withCk (0x00#8, 0x00#8)) := by
  rintro s rfl rfl
  rfl

theorem completes_ckByte (P : Params) (b : Block) (d : Byte) :
    Completes P b (.ckByte d) 0x0000#16 (b.withCk (flStep b.ckSums d)) := by
  rintro s rfl rfl
  rfl

theorem completes_ckRd (P : Params) (b : Block) : Completes P b .ckRd (pack b.ckS1 b.ckS2) b := by
  rintro s rfl rfl
  rfl

/-- CK_BYTE over the bytes of a sequence takes the sums through them, first byte first. -/
theorem completeAll_ckByte (P : Params) (b : Block) (bs : List Byte) :
    CompleteAll P b (bs.map fun d => (.ckByte d, 0x0000#16)) (b.withCk (flFold b.ckSums bs)) := by
  induction bs generalizing b with
  | nil => exact .nil b
  | cons d bs ih => exact .cons rfl (completes_ckByte P b d) (ih _)

/-- The commands of CK_SEQ with the CK_RD behind it, and their data. -/
def ckSeqCommands (bs : List Byte) : List (Instr × Word) :=
  (.ckClr, 0x0000#16) :: bs.map (fun d => (.ckByte d, 0x0000#16)) ++ [(.ckRd, fletcher16 bs)]

theorem completeAll_ckSeq (P : Params) (b : Block) (bs : List Byte) :
    CompleteAll P b (ckSeqCommands bs) (b.withCk (flFold (0x00#8, 0x00#8) bs)) :=
  .append (.cons rfl (completes_ckClr P b) (completeAll_ckByte P _ bs)) (.single rfl (completes_ckRd P _))

/-- Settles O20: CK_CLR starts the sums at 0, CK_BYTE takes them through the bytes, and CK_RD answers them. -/
theorem ckSequenceGivesFletcher16 : Obligations.CkSequenceGivesFletcher16 := by
  intro bs s hrst
  have hturns : ((AsmLine.pseudo (.ckSeq bs)).words ++ [0x1200#16]).map Turn.cmd =
      (ckSeqCommands bs).map fun c => .cmd (encode c.1) := by
    simp only [ckSeqCommands, AsmLine.words, expandPseudo, List.map_cons, List.map_append, List.map_map, List.map_nil]
    rfl
  rw [hturns, playTurns_of_completeAll (completeAll_ckSeq s.params s.blk bs) hrst rfl rfl]
  refine ⟨_, rfl, s.answeredAll_concat_rsp _ (.ckRd, fletcher16 bs) _, ?_, ?_⟩
  · simp only [State.answeredAll, ckSeqCommands, List.map_cons, List.map_append, List.map_map, List.map_nil,
      ← List.append_assoc]
    rfl
  · simp [State.answeredAll, fletcher16, Block.withCk]

/-! ### Bytes stored one behind another -/

/-- Store bytes in a buffer from index `i` on. -/
def Memory.writeAll : Memory → Nat → List Byte → Memory
  | m, _, [] => m
  | m, i, v :: bs => Memory.writeAll (Memory.write m i v) (i + 1) bs

theorem Memory.writeAll_append (m : Memory) (i : Nat) (as bs : List Byte) :
    Memory.writeAll m i (as ++ bs) = Memory.writeAll (Memory.writeAll m i as) (i + as.length) bs := by
  induction as generalizing m i with
  | nil => rfl
  | cons a as ih =>
    rw [List.cons_append, writeAll, ih, writeAll, List.length_cons, Nat.add_right_comm, Nat.add_assoc]

/-- One more byte behind those stored. -/
theorem Memory.writeAll_concat (m : Memory) (i : Nat) (bs : List Byte) (v : Byte) :
    Memory.writeAll m i (bs ++ [v]) = Memory.write (Memory.writeAll m i bs) (i + bs.length) v :=
  Memory.writeAll_append m i bs [v]

/-- The buffer holds the bytes stored in it. -/
theorem holdsAt_writeAll (m : Memory) (i : Nat) (bs : List Byte) : HoldsAt (Memory.writeAll m i bs) i bs := by
  induction bs using List.reverseRecOn with
  | nil => exact fun _ hj => absurd hj (Nat.not_lt_zero _)
  | append_singleton bs v ih =>
    rw [Memory.writeAll_concat]
    exact ih.write_append v rfl

/-! ### ENC_FRAME (R88, R125 to R127) -/

/-- The block after ENC_CLR and ENC_LOAD of the bytes `p`. -/
def Block.loaded (b : Block) (p : List Byte) : Block :=
  { b with tx := Memory.writeAll b.tx 0 p, txlen := BitVec.ofNat 8 p.length }

/-- The block after ENC_FRAME of the bytes `p`: the frame waits for TXL's first step. -/
def Block.framed (b : Block) (p : List Byte) : Block :=
  { b.loaded p with encCk := frameCk p, encIdx := 0x00#8, encPhase := .start }

theorem Block.loaded_holdsPayload (b : Block) {p : List Byte} (hp : p.length ≤ 255) : HoldsPayload (b.loaded p) p :=
  ⟨toNat_ofNat_of_lt (Nat.lt_succ_of_le hp), holdsAt_writeAll b.tx 0 p⟩

theorem completes_encClr {P : Params} {b : Block} (hidle : b.encPhase = .idle) :
    Completes P b .encClr 0x0000#16 (b.loaded []) := by
  rintro s rfl rfl
  exact exec_encClr_idle hidle

/-- ENC_LOAD with room in TX puts its byte behind the payload. -/
theorem completes_encLoad {P : Params} {b : Block} {q : List Byte} (hidle : b.encPhase = .idle) (d : Byte)
    (hroom : q.length < P.txcap) (htxcap : P.txcap ≤ 255) :
    Completes P (b.loaded q) (.encLoad d) 0x0000#16 (b.loaded (q ++ [d])) := by
  rintro s rfl hblk
  have hlen : s.blk.txlen.toNat = q.length := by
    rw [hblk]
    exact toNat_ofNat_of_lt (by omega)
  have hidle : s.blk.encPhase = .idle := by
    rw [hblk]
    exact hidle
  have hnext : b.loaded (q ++ [d]) =
      { s.blk with tx := Memory.write s.blk.tx s.blk.txlen.toNat d, txlen := s.blk.txlen + 1#8 } := by
    rw [hlen, hblk]
    simp only [Block.loaded, Memory.writeAll_concat, Nat.zero_add, List.length_append, List.length_singleton,
      BitVec.ofNat_add]
  rw [exec, execEncLoad, unlessBusy_idle _ hidle, if_neg (by omega), writeTx_of_lt (by omega), onOk_ok, settle_ok, hnext]
  rfl

/-- ENC_SEND latches the checksum of the frame of the payload in TX (R127). -/
theorem completes_encSend {P : Params} {b : Block} {p : List Byte} (hidle : b.encPhase = .idle)
    (hp : p.length ≤ P.txcap) (htxcap : P.txcap ≤ 255) :
    Completes P (b.loaded p) .encSend 0x0000#16 (b.framed p) := by
  rintro s rfl hblk
  have hholds : HoldsPayload s.blk p := hblk ▸ b.loaded_holdsPayload (Nat.le_trans hp htxcap)
  have hidle : s.blk.encPhase = .idle := by
    rw [hblk]
    exact hidle
  rw [exec, execEncSend, unlessBusy_idle _ hidle, readTxSpan_of_holdsPayload hholds hp, onOk_ok, settle_ok, hblk]
  rfl

/-- ENC_LOAD of the bytes `p` behind those of `q`. -/
theorem completeAll_encLoad {P : Params} {b : Block} (hidle : b.encPhase = .idle) (htxcap : P.txcap ≤ 255)
    (q p : List Byte) (hroom : q.length + p.length ≤ P.txcap) :
    CompleteAll P (b.loaded q) (p.map fun d => (.encLoad d, 0x0000#16)) (b.loaded (q ++ p)) := by
  induction p generalizing q with
  | nil =>
    rw [List.append_nil]
    exact .nil _
  | cons d p ih =>
    rw [List.length_cons] at hroom
    have hrest := ih (q ++ [d]) (by rw [List.length_append, List.length_singleton]; omega)
    rw [List.append_assoc] at hrest
    exact .cons rfl (completes_encLoad hidle d (by omega) htxcap) hrest

/-- The commands of ENC_FRAME, and their data. -/
def encFrameCommands (p : List Byte) : List (Instr × Word) :=
  (.encClr, 0x0000#16) :: p.map (fun d => (.encLoad d, 0x0000#16)) ++ [(.encSend, 0x0000#16)]

theorem data_of_mem_encFrameCommands {p : List Byte} {c : Instr × Word} (hc : c ∈ encFrameCommands p) :
    c.2 = 0x0000#16 := by
  simp only [encFrameCommands, List.mem_append, List.mem_cons, List.mem_map, List.not_mem_nil, or_false] at hc
  obtain (rfl | ⟨d, -, rfl⟩) | rfl := hc <;> rfl

theorem completeAll_encFrame {P : Params} {b : Block} {p : List Byte} (hidle : b.encPhase = .idle)
    (hp : p.length ≤ P.txcap) (htxcap : P.txcap ≤ 255) : CompleteAll P b (encFrameCommands p) (b.framed p) :=
  .append (.cons rfl (completes_encClr hidle) (completeAll_encLoad hidle htxcap [] p (by simpa using hp)))
    (.single rfl (completes_encSend hidle hp htxcap))

/-- ENC_FRAME of up to TXCAP bytes from an idle state outside reset. -/
theorem playTurns_encFrame {s : State} {p : List Byte} (hwf : s.params.wf = true) (hp : p.length ≤ s.params.txcap)
    (hrst : s.rstN = true) (hidle : s.blk.encPhase = .idle) :
    playTurns ((AsmLine.pseudo (.encFrame p)).words.map .cmd) s =
      .next (s.answeredAll (encFrameCommands p) (s.blk.framed p)) := by
  obtain ⟨-, -, -, htxcap⟩ := Params.wf_iff.1 hwf
  have hturns : (AsmLine.pseudo (.encFrame p)).words.map Turn.cmd =
      (encFrameCommands p).map fun c => .cmd (encode c.1) := by
    simp only [encFrameCommands, AsmLine.words, expandPseudo, List.map_cons, List.map_append, List.map_map, List.map_nil]
    rfl
  rw [hturns, playTurns_of_completeAll (completeAll_encFrame hidle hp htxcap) hrst rfl rfl]

/-- Settles O28: ENC_CLR empties TX, each ENC_LOAD puts its byte behind the payload, and ENC_SEND latches its checksum. -/
theorem encFrameLoadsAndStarts : Obligations.EncFrameLoadsAndStarts := by
  refine ⟨rfl, rfl, rfl, fun p s hwf hp hrst hidle => ?_⟩
  obtain ⟨-, -, -, htxcap⟩ := Params.wf_iff.1 hwf
  rw [playTurns_encFrame hwf hp hrst hidle]
  refine ⟨_, rfl, s.blk.loaded_holdsPayload (Nat.le_trans hp htxcap), rfl, rfl, rfl, ⟨rfl, rfl⟩,
    ⟨⟨rfl, rfl, rfl, rfl, rfl, rfl, fun _ => rfl⟩, rfl⟩, rfl, rfl, hrst, rfl, _, rfl, ?_, ?_⟩
  · simp [encFrameCommands]
  · intro c hc
    obtain ⟨d, hd, rfl⟩ := List.mem_map.1 hc
    rw [data_of_mem_encFrameCommands hd]

end Sys2Proof.Machine
end

section
/-! SUPPORT. A whole frame on each line: ENC hands over the wire image of its payload, and DEC takes it byte by byte, told by
the blocks between the bytes. -/

namespace Sys2Proof.Machine

/-! ### A frame handed over (R131, R138) -/

theorem encPhase_of_unsent_nil {p : List Byte} {b : Block} (h : unsent p b = []) : b.encPhase = .idle := by
  cases hphase : b.encPhase with
  | idle => rfl
  | start | len | data | esc2 | ck1 | ck2 => simp [unsent, hphase, ckBytes] at h

/-- The state `t` after the rest of the frame of the payload `p` was handed over from `s`: of the block only the position
of ENC is new, and RXL's bytes wait as before. -/
structure FrameSent (p : List Byte) (s t : State) : Prop where
  blk : t.blk = { s.blk with encPhase := .idle, encIdx := t.blk.encIdx }
  txLog : t.txLog = s.txLog ++ unsent p s.blk
  rxq : t.rxq = s.rxq
  rstN : t.rstN = s.rstN
  params : t.params = s.params

/-- With ENC idle the frame was handed over whole. -/
theorem FrameSent.of_idle {p : List Byte} {s : State} (hidle : s.blk.encPhase = .idle) : FrameSent p s s :=
  ⟨by rw [← hidle], by rw [unsent_idle hidle, List.append_nil], rfl, rfl, rfl⟩

/-- One byte of the frame and then the rest of it. -/
theorem FrameSent.of_step {p : List Byte} {s u t : State} {phase : EncPhase} {idx : Byte} (h : FrameSent p u t)
    (hblk : u.blk = { s.blk with encPhase := phase, encIdx := idx })
    (hlog : u.txLog ++ unsent p u.blk = s.txLog ++ unsent p s.blk) (hrxq : u.rxq = s.rxq) (hrst : u.rstN = s.rstN)
    (hparams : u.params = s.params) : FrameSent p s t := by
  refine ⟨?_, h.txLog.trans hlog, h.rxq.trans hrxq, h.rstN.trans hrst, h.params.trans hparams⟩
  have hlast := h.blk
  rw [hblk] at hlast
  exact hlast

/-- `run tx` hands over what is still to be sent, if it may take a step for each byte. -/
theorem runTx_sends {p : List Byte} {n : Nat} {s : State} (hinv : Inv s) (hrst : s.rstN = true)
    (hp : HoldsPayload s.blk p) (hn : (unsent p s.blk).length ≤ n) : ∃ t, runTx n s = .next t ∧ FrameSent p s t := by
  induction n generalizing s with
  | zero =>
    have hnil := List.eq_nil_of_length_eq_zero (Nat.le_zero.1 hn)
    exact ⟨s, rfl, .of_idle (encPhase_of_unsent_nil hnil)⟩
  | succ n ih =>
    rw [runTx]
    split
    · next hidle => exact ⟨s, rfl, .of_idle hidle⟩
    · next hbusy =>
      have hinv' : Inv { s with sched := .txl :: s.sched } := hinv.congr rfl rfl rfl
      obtain ⟨u, hu⟩ := invStatesRun _ hinv'
      obtain ⟨hup, -, hlog, hless⟩ :=
        emissionIsContiguous _ u p .txl s.sched hinv' rfl (by simp) (by simp) hbusy hp hu
      obtain ⟨-, -, hrxq, -, -, hurst, hparams, hblk⟩ := (lineStepsStayInTheirUnit _ u s.sched hu).2 rfl
      have hless : (unsent p u.blk).length + 1 = (unsent p s.blk).length := hless rfl hrst
      obtain ⟨t, ht, hsent⟩ := ih (stepKeepsInv _ u hinv' hu) (hurst.trans hrst) hup (by omega)
      rw [playTurns_one, hu, andThen_next]
      exact ⟨t, ht, hsent.of_step hblk hlog hrxq hurst hparams⟩

theorem length_escAll_le (p : List Byte) : (escAll p).length ≤ 2 * p.length := by
  induction p with
  | nil => exact Nat.le_refl 0
  | cons v p ih =>
    have hesc : (esc v).length ≤ 2 := by
      unfold esc
      split <;> simp
    rw [escAll_cons, List.length_append, List.length_cons]
    omega

/-- A frame is at most `maxFrameSteps` bytes long (R138). -/
theorem length_wireImage_le {p : List Byte} (hp : p.length ≤ 255) : (wireImage p).length ≤ maxFrameSteps := by
  have := length_escAll_le p
  simp only [wireImage, maxFrameSteps, List.length_append, List.length_cons, List.length_nil]
  omega

/-- After ENC_FRAME the whole wire image is still to be sent. -/
theorem unsent_framed (b : Block) (p : List Byte) : unsent p (b.framed p) = wireImage p := by
  rw [unsent_start rfl]
  rfl

/-! ### Bytes taken from RXL -/

/-- At capacities `P`, from the block `b` and not held, RXL's byte `w` leaves the block `b'`. -/
structure Takes (P : Params) (b : Block) (w : Byte) (b' : Block) : Prop where
  not_held : b.decPhase ≠ .hold
  byte : ∀ s : State, s.params = P → s.blk = b → rxlByte w s = .ok (s.withBlk b')

/-- The bytes of a list are taken one after another, from the first block to the last. -/
inductive TakeAll (P : Params) : Block → List Byte → Block → Prop where
  | nil (b : Block) : TakeAll P b [] b
  | cons {b b' b'' : Block} {w : Byte} {ws : List Byte} (hfirst : Takes P b w b') (hrest : TakeAll P b' ws b'') :
      TakeAll P b (w :: ws) b''

theorem TakeAll.append {P : Params} {b b' b'' : Block} {vs ws : List Byte} (h : TakeAll P b vs b')
    (h' : TakeAll P b' ws b'') : TakeAll P b (vs ++ ws) b'' := by
  induction h with
  | nil => exact h'
  | cons hfirst _ ih => exact .cons hfirst (ih h')

/-- The state after RXL handed over the byte `w`, with `q` left, and the block became `b`. -/
def State.received (s : State) (w : Byte) (q : List Byte) (b : Block) : State :=
  { s with blk := b, rsp := none, rxq := q, rxLog := s.rxLog ++ [w] }

/-- A step on a byte that is taken. -/
theorem step_of_takes {s : State} {w : Byte} {q : List Byte} {b : Block} {rest : List Turn} (hrst : s.rstN = true)
    (hq : s.rxq = w :: q) (h : Takes s.params s.blk w b) :
    step { s with sched := .rxl :: rest } = .next { s.received w q b with sched := rest } := by
  have hturn : rxlTurn { s with sched := rest, rsp := none } = .ok { s.received w q b with sched := rest } := by
    rw [rxlTurn_enabled (s := { s with sched := rest, rsp := none }) hrst h.not_held hq]
    exact h.byte (acceptByte w q { s with sched := rest, rsp := none }) rfl rfl
  exact congrArg settle hturn

/-- `run rx` over bytes that are all taken uses them up. -/
theorem runRx_of_takeAll {P : Params} {b b' : Block} {ws : List Byte} (h : TakeAll P b ws b') {s : State}
    (hrst : s.rstN = true) (hparams : s.params = P) (hblk : s.blk = b) (hq : s.rxq = ws) :
    ∃ t, runDirective .runRx s = .next t ∧ t.blk = b' ∧ t.rxq = [] := by
  induction h generalizing s with
  | nil => exact ⟨s, by rw [runDirective, hq]; rfl, hblk, hq⟩
  | @cons _ b₁ _ w ws hfirst _ ih =>
    subst hparams hblk
    obtain ⟨t, ht, hdone⟩ := ih (s := s.received w ws b₁) hrst rfl rfl rfl
    refine ⟨t, ?_, hdone⟩
    rw [runDirective, hq, List.length_cons, runRx, if_neg (by simp [hfirst.not_held, hq]), playTurns_one,
      step_of_takes hrst hq hfirst]
    exact ht

/-! ### The bytes of a frame, phase by phase (R152 to R161) -/

section
variable {s : State} {w : Byte}

theorem rxlByte_start (hphase : s.blk.decPhase = .hunt) :
    rxlByte Config.START s = .ok (s.withBlk { s.blk with decPhase := .len }) := by
  simp only [rxlByte, hphase, if_true]

/-- A length byte in 1..LMAX is accepted (R153, R154). -/
theorem rxlByte_accepted (hphase : s.blk.decPhase = .len) (hcap : 0 < s.params.cap) (hne : w ≠ 0x00#8)
    (hmax : w.toNat ≤ s.params.lmax) :
    rxlByte w s = .ok (s.withBlk
      { Block.startFrame { s.blk with rx := Memory.write s.blk.rx 0 w } w with decPhase := .data }) := by
  have hjudge (b : Block) : Block.judgeLength s.params w b = { b with decPhase := .data } := by
    rw [Block.judgeLength, if_neg hne, if_neg (Nat.not_lt.2 hmax)]
  simp only [rxlByte, hphase, writeRx_of_lt hcap, onOk_ok, State.withBlk_params, hjudge]
  rfl

theorem storePayload_of_lt (hcap : 1 + s.blk.decIdx.toNat < s.params.cap) :
    storePayload w s = .ok (s.withBlk
      (Block.countPayload { s.blk with rx := Memory.write s.blk.rx (1 + s.blk.decIdx.toNat) w } w)) := by
  rw [storePayload, writeRx_of_lt hcap, onOk_ok]
  rfl

theorem rxlByte_escape (hphase : s.blk.decPhase = .data) :
    rxlByte Config.ESC s = .ok (s.withBlk { s.blk with decPhase := .esc }) := by
  simp only [rxlByte, hphase, if_true]

theorem rxlByte_plain (hphase : s.blk.decPhase = .data) (hw : w ≠ Config.ESC) : rxlByte w s = storePayload w s := by
  simp only [rxlByte, hphase, if_neg hw]

theorem rxlByte_escaped (hphase : s.blk.decPhase = .esc) :
    rxlByte (w ^^^ Config.XMASK) s = storePayload w s := by
  have hmask : w ^^^ Config.XMASK ^^^ Config.XMASK = w := by rw [BitVec.xor_assoc, BitVec.xor_self, BitVec.xor_zero]
  simp only [rxlByte, hphase, hmask]

theorem rxlByte_ck1 (hphase : s.blk.decPhase = .ck1) (hcap : s.blk.decLen.toNat + 1 < s.params.cap) :
    rxlByte w s = .ok (s.withBlk
      { s.blk with rx := Memory.write s.blk.rx (s.blk.decLen.toNat + 1) w, decPhase := .ck2 }) := by
  simp only [rxlByte, hphase, writeRx_of_lt hcap, onOk_ok]
  rfl

/-- The second checksum byte is judged with the first, which RX holds (R161). -/
theorem rxlByte_ck2 {hi : Byte} (hphase : s.blk.decPhase = .ck2) (hcap : s.blk.decLen.toNat + 2 < s.params.cap)
    (hread : Memory.read? s.blk.rx (s.blk.decLen.toNat + 1) = some hi) :
    rxlByte w s = .ok (s.withBlk { s.blk with
      rx := Memory.write s.blk.rx (s.blk.decLen.toNat + 2) w
      decResult := if pack hi w = pack s.blk.decS1 s.blk.decS2 then .ok else .ckfail
      decPhase := .hold }) := by
  simp only [rxlByte, hphase, readRx_of_lt (Nat.lt_of_succ_lt hcap), readCell_of_some s hread, onOk_ok,
    writeRx_of_lt hcap]
  rfl

end

/-! ### A frame taken (R150, R164) -/

/-- The block `b` inside a frame with length byte `len`: the payload bytes `q` are counted and summed, and RX is `m`. -/
def Block.receiving (b : Block) (len : Byte) (q : List Byte) (m : Memory) (phase : DecPhase) : Block :=
  { b with
    decPhase := phase
    decLen := len
    decIdx := BitVec.ofNat 8 q.length
    decS1 := (flFold (0x00#8, 0x00#8) (len :: q)).1
    decS2 := (flFold (0x00#8, 0x00#8) (len :: q)).2
    rx := m }

/-- The phase after the payload bytes `q`: CK1 behind the last one (R157, R159). -/
def phaseAfter (len : Byte) (q : List Byte) : DecPhase := if q.length = len.toNat then .ck1 else .data

theorem takes_start {P : Params} {b : Block} (hphase : b.decPhase = .hunt) :
    Takes P b Config.START { b with decPhase := .len } := by
  refine ⟨by simp [hphase], ?_⟩
  rintro s rfl rfl
  exact rxlByte_start hphase

/-- A length byte in 1..LMAX opens the payload. -/
theorem takes_len {P : Params} (b : Block) {len : Byte} (hcap : 0 < P.cap) (hpos : 1 ≤ len.toNat)
    (hmax : len.toNat ≤ P.lmax) :
    Takes P { b with decPhase := .len } len (b.receiving len [] (Memory.write b.rx 0 len) .data) := by
  have hne : len ≠ 0x00#8 := by
    rintro rfl
    exact absurd hpos (by decide)
  refine ⟨by simp, ?_⟩
  rintro s rfl hblk
  rw [rxlByte_accepted (by rw [hblk]) hcap hne hmax, hblk]
  rfl

section
variable {P : Params} {b : Block} {len : Byte} {q : List Byte} {m : Memory}

theorem Block.receiving_decIdx {phase : DecPhase} (hlt : q.length < len.toNat) :
    (b.receiving len q m phase).decIdx.toNat = q.length :=
  toNat_ofNat_of_lt (Nat.lt_trans hlt len.isLt)

/-- One more payload byte is counted and summed behind those before it. -/
theorem Block.countPayload_receiving {phase : DecPhase} (m' : Memory) (v : Byte) (hlt : q.length < len.toNat) :
    Block.countPayload { b.receiving len q m phase with rx := m' } v =
      b.receiving len (q ++ [v]) m' (phaseAfter len (q ++ [v])) := by
  have hsums : flFold (0x00#8, 0x00#8) (len :: (q ++ [v])) = flStep (flFold (0x00#8, 0x00#8) (len :: q)) v := by
    rw [← List.cons_append, flFold_append]
    rfl
  have hcount : BitVec.ofNat 8 (q ++ [v]).length = BitVec.ofNat 8 q.length + 1#8 := by
    rw [List.length_append, List.length_singleton, BitVec.ofNat_add]
  have hphase : phaseAfter len (q ++ [v]) =
      if (BitVec.ofNat 8 q.length).toNat + 1 = len.toNat then .ck1 else .data := by
    rw [phaseAfter, List.length_append, List.length_singleton, toNat_ofNat_of_lt (Nat.lt_trans hlt len.isLt)]
  simp only [Block.receiving, hsums, hcount, hphase]
  rfl

/-- A payload byte is stored behind those before it. -/
theorem storePayload_receiving {s : State} {phase : DecPhase} (v : Byte) (hblk : s.blk = b.receiving len q m phase)
    (hlt : q.length < len.toNat) (hcap : 1 + q.length < s.params.cap) :
    storePayload v s = .ok (s.withBlk
      (b.receiving len (q ++ [v]) (Memory.write m (1 + q.length) v) (phaseAfter len (q ++ [v])))) := by
  have hidx : s.blk.decIdx.toNat = q.length := hblk ▸ Block.receiving_decIdx hlt
  rw [storePayload_of_lt (hidx ▸ hcap), hidx, hblk, Block.countPayload_receiving _ v hlt]
  rfl

theorem takes_plain {v : Byte} (hv : v ≠ Config.ESC) (hlt : q.length < len.toNat) (hcap : 1 + q.length < P.cap) :
    Takes P (b.receiving len q m .data) v
      (b.receiving len (q ++ [v]) (Memory.write m (1 + q.length) v) (phaseAfter len (q ++ [v]))) := by
  refine ⟨by simp [Block.receiving], ?_⟩
  rintro s rfl hblk
  rw [rxlByte_plain (by rw [hblk]; rfl) hv, storePayload_receiving v hblk hlt hcap]

theorem takes_escape : Takes P (b.receiving len q m .data) Config.ESC (b.receiving len q m .esc) := by
  refine ⟨by simp [Block.receiving], ?_⟩
  rintro s rfl hblk
  rw [rxlByte_escape (by rw [hblk]; rfl), hblk]
  rfl

theorem takes_escaped (v : Byte) (hlt : q.length < len.toNat) (hcap : 1 + q.length < P.cap) :
    Takes P (b.receiving len q m .esc) (v ^^^ Config.XMASK)
      (b.receiving len (q ++ [v]) (Memory.write m (1 + q.length) v) (phaseAfter len (q ++ [v]))) := by
  refine ⟨by simp [Block.receiving], ?_⟩
  rintro s rfl hblk
  rw [rxlByte_escaped (by rw [hblk]; rfl), storePayload_receiving v hblk hlt hcap]

/-- The wire bytes of one payload byte (R121). -/
theorem takeAll_esc (v : Byte) (hlt : q.length < len.toNat) (hcap : 1 + q.length < P.cap) :
    TakeAll P (b.receiving len q m .data) (esc v)
      (b.receiving len (q ++ [v]) (Memory.write m (1 + q.length) v) (phaseAfter len (q ++ [v]))) := by
  cases htrigger : needsEscape v with
  | true =>
    rw [esc_trigger htrigger]
    exact .cons takes_escape (.cons (takes_escaped v hlt hcap) (.nil _))
  | false =>
    have hv : v ≠ Config.ESC := by
      rintro rfl
      exact absurd htrigger (by decide)
    rw [esc_plain htrigger]
    exact .cons (takes_plain hv hlt hcap) (.nil _)

/-- The wire bytes of the rest of the payload, from its first byte that is missing to CK1. -/
theorem takeAll_escAll {p : List Byte} (hne : p ≠ []) (hlen : q.length + p.length = len.toNat)
    (hcap : len.toNat < P.cap) :
    TakeAll P (b.receiving len q m .data) (escAll p)
      (b.receiving len (q ++ p) (Memory.writeAll m (1 + q.length) p) .ck1) := by
  induction p generalizing q m with
  | nil => exact absurd rfl hne
  | cons v p ih =>
    rw [List.length_cons] at hlen
    have hfirst : TakeAll P (b.receiving len q m .data) (esc v)
        (b.receiving len (q ++ [v]) (Memory.write m (1 + q.length) v) (phaseAfter len (q ++ [v]))) :=
      takeAll_esc v (by omega) (by omega)
    rw [escAll_cons]
    by_cases hlast : p = []
    · subst hlast
      have hphase : phaseAfter len (q ++ [v]) = .ck1 := if_pos (by simpa using hlen)
      rw [hphase] at hfirst
      exact hfirst.append (.nil _)
    · have hpos := List.length_pos_iff.2 hlast
      have hphase : phaseAfter len (q ++ [v]) = .data :=
        if_neg (by rw [List.length_append, List.length_singleton]; omega)
      rw [hphase] at hfirst
      have hrest := ih (q := q ++ [v]) (m := Memory.write m (1 + q.length) v) hlast
        (by rw [List.length_append, List.length_singleton]; omega)
      rw [List.append_assoc, List.length_append, List.length_singleton, ← Nat.add_assoc] at hrest
      exact hfirst.append hrest

theorem takes_ck1 (w : Byte) (hcap : len.toNat + 1 < P.cap) :
    Takes P (b.receiving len q m .ck1) w (b.receiving len q (Memory.write m (len.toNat + 1) w) .ck2) := by
  refine ⟨by simp [Block.receiving], ?_⟩
  rintro s rfl hblk
  have hlen : s.blk.decLen = len := by rw [hblk]; rfl
  rw [rxlByte_ck1 (by rw [hblk]; rfl) (hlen ▸ hcap), hlen, hblk]
  rfl

/-- The second checksum byte, where both are those of the frame. -/
theorem takes_ck2 {hi lo : Byte} (hck : pack hi lo = fletcher16 (len :: q))
    (hhi : Memory.read? m (len.toNat + 1) = some hi) (hcap : len.toNat + 2 < P.cap) :
    Takes P (b.receiving len q m .ck2) lo
      { b.receiving len q (Memory.write m (len.toNat + 2) lo) .hold with decResult := .ok } := by
  refine ⟨by simp [Block.receiving], ?_⟩
  rintro s rfl hblk
  have hlen : s.blk.decLen = len := by rw [hblk]; rfl
  have hread : Memory.read? s.blk.rx (s.blk.decLen.toNat + 1) = some hi := by rw [hlen, hblk]; exact hhi
  have hsums : pack hi lo = pack s.blk.decS1 s.blk.decS2 := by rw [hblk]; exact hck
  rw [rxlByte_ck2 (by rw [hblk]; rfl) (hlen ▸ hcap) hread, if_pos hsums, hlen, hblk]
  rfl

end

/-- The block `b` with the frame of the payload `p` held in RX, checksum OK. -/
def Block.delivered (b : Block) (p : List Byte) : Block :=
  { b.receiving (lenByte p) p
      (Memory.writeAll b.rx 0 (lenByte p :: p ++ [hiByte (frameCk p), loByte (frameCk p)])) .hold with decResult := .ok }

/-- The wire image of a payload of 1 to LMAX bytes, taken from HUNT, is delivered (R164). -/
theorem takeAll_wireImage {P : Params} {b : Block} {p : List Byte} (hwf : P.wf = true) (hphase : b.decPhase = .hunt)
    (hpos : 1 ≤ p.length) (hmax : p.length ≤ P.lmax) : TakeAll P b (wireImage p) (b.delivered p) := by
  obtain ⟨hcap, hcap', -, -⟩ := Params.wf_iff.1 hwf
  have hlmax : P.lmax = P.cap - 3 := rfl
  have hlen : (lenByte p).toNat = p.length := toNat_ofNat_of_lt (by omega)
  have hne : p ≠ [] := List.length_pos_iff.1 hpos
  have hhead : TakeAll P b [Config.START, lenByte p]
      (b.receiving (lenByte p) [] (Memory.write b.rx 0 (lenByte p)) .data) :=
    .cons (takes_start hphase) (.cons (takes_len b (by omega) (by omega) (by omega)) (.nil _))
  have hpayload := hhead.append (takeAll_escAll hne (by rw [hlen]; simp) (by omega))
  refine hpayload.append (.cons (takes_ck1 _ (by omega)) (.cons ?_ (.nil _)))
  have hrx : Memory.writeAll b.rx 0 (lenByte p :: p ++ [hiByte (frameCk p), loByte (frameCk p)]) =
      Memory.write (Memory.write (Memory.writeAll (Memory.write b.rx 0 (lenByte p)) 1 p) ((lenByte p).toNat + 1)
        (hiByte (frameCk p))) ((lenByte p).toNat + 2) (loByte (frameCk p)) := by
    rw [Memory.writeAll_append, hlen, List.length_cons]
    simp [Memory.writeAll]
  rw [Block.delivered, hrx]
  exact takes_ck2 (pack_hiByte_loByte _) (Memory.read?_write_same _ _ _) (by omega)

/-- A delivered payload stands behind the length byte in RX. -/
theorem holdsAt_delivered (b : Block) (p : List Byte) : HoldsAt (b.delivered p).rx 1 p := by
  intro j hj
  have hframe := holdsAt_writeAll b.rx 0 (lenByte p :: p ++ [hiByte (frameCk p), loByte (frameCk p)]) (j + 1)
    (by simp; omega)
  rw [List.cons_append, List.getElem?_cons_succ, List.getElem?_append_left hj, Nat.zero_add, Nat.add_comm] at hframe
  exact hframe

/-- STATUS with ENC idle, no zero length met and a frame held OK: FRDY, DRES 01 and DPH 110 (R44). -/
theorem status_delivered {b : Block} (p : List Byte) (hidle : b.encPhase = .idle) (hzlen : b.zlen = false) :
    (b.delivered p).status = 0x004E#16 := by
  have hidle' : (b.delivered p).encPhase = .idle := hidle
  have hzlen' : (b.delivered p).zlen = false := hzlen
  have hphase : (b.delivered p).decPhase = .hold := rfl
  have hresult : (b.delivered p).decResult = .ok := rfl
  rw [Block.status, Block.encBusy, Block.frdy, hidle', hzlen', hphase, hresult]
  rfl

/-! ### The loopback (R89, R138, R164) -/

/-- Every run of turns keeps the invariant. -/
theorem inv_of_playTurns {ts : List Turn} {s t : State} (hinv : Inv s) (h : playTurns ts s = .next t) : Inv t := by
  have hstep (s : State) (turn : Turn) (rest : List Turn) (_ : s.sched = turn :: rest) (_ : True) (hinv : Inv s) :
      ∃ t, step s = .next t ∧ Inv t := by
    obtain ⟨t, ht⟩ := invStatesRun s hinv
    exact ⟨t, ht, stepKeepsInv s t hinv ht⟩
  have hinv' : Inv { s with sched := ts ++ s.sched } := hinv.congr rfl rfl rfl
  obtain ⟨u, hu, hinvu⟩ := run_keeps Inv (fun _ => True) hstep ts _ s.sched rfl (fun _ _ => trivial) hinv'
  cases h.symm.trans hu
  exact hinvu

/-- ENC_FRAME and `run tx` from a state that meets the invariant, with ENC idle: the wire image is handed over, and of the
block unit ENC alone is touched. -/
theorem runProgram_frame {s : State} {p : List Byte} (hinv : Inv s) (hrst : s.rstN = true)
    (hidle : s.blk.encPhase = .idle) (hp : p.length ≤ s.params.txcap) :
    ∃ t, runProgram [.line (.pseudo (.encFrame p)), .runTx] s = .next t ∧
      FrameSent p (s.answeredAll (encFrameCommands p) (s.blk.framed p)) t := by
  obtain ⟨-, -, -, htxcap⟩ := Params.wf_iff.1 hinv.params_wf
  have hframe := playTurns_encFrame hinv.params_wf hp hrst hidle
  have hholds : HoldsPayload (s.blk.framed p) p := s.blk.loaded_holdsPayload (Nat.le_trans hp htxcap)
  have hsteps : (unsent p (s.blk.framed p)).length ≤ maxFrameSteps := by
    rw [unsent_framed]
    exact length_wireImage_le (Nat.le_trans hp htxcap)
  obtain ⟨t, ht, hsent⟩ := runTx_sends (inv_of_playTurns hinv hframe) hrst hholds hsteps
  refine ⟨t, ?_, hsent⟩
  simp only [runProgram, runDirective, hframe, andThen_next, ht]

/-- Settles O43: ENC_FRAME leaves the wire image to be sent, TXL takes all of it, and DEC takes it back from HUNT. -/
theorem loopbackDeliversPayload : Obligations.LoopbackDeliversPayload := by
  intro P p hwf hpos hmax htx
  have hinv : Inv { State.reset with params := P } := inv_of_reset hwf rfl
  obtain ⟨t, ht, hblk, hlog, hrxq, hrst, hparams⟩ := runProgram_frame (p := p) hinv rfl rfl htx
  have hlog : t.txLog = wireImage p := hlog.trans (unsent_framed _ p)
  have hrxq : t.rxq = [] := hrxq
  have hrst : t.rstN = true := hrst
  have hparams : t.params = P := hparams
  have hidle : t.blk.encPhase = .idle := by rw [hblk]
  have hhunt : t.blk.decPhase = .hunt := by rw [hblk]; rfl
  have hzlen : t.blk.zlen = false := by rw [hblk]; rfl
  obtain ⟨u, hu, hublk, hurxq⟩ := runRx_of_takeAll (takeAll_wireImage hwf hhunt hpos hmax)
    (s := { t with rxq := t.rxq ++ t.txLog }) hrst hparams rfl (by rw [hrxq, hlog, List.nil_append])
  have hoffer : runDirective (.rx t.txLog) t = .next { t with rxq := t.rxq ++ t.txLog } := rfl
  refine ⟨t, u, ht, ?_, hlog, hidle, ?_, ?_, hurxq, ?_, ?_⟩
  · simp only [runProgram, hoffer, hu, andThen_next]
  · rw [hublk]; rfl
  · rw [hublk]; rfl
  · rw [hublk]
    exact holdsAt_delivered t.blk p
  · rw [hublk]
    exact status_delivered p hidle hzlen

end Sys2Proof.Machine
end

section
/-! SUPPORT. Unit CK and the checksum function as arithmetic modulo 255: one byte, a whole sequence, an exchange of two
neighbours, and the 8-bit formulation with an end-around carry. -/

namespace Sys2Proof.Machine

/-! ### One byte modulo 255 (R102) -/

theorem flStep_fst_eq_mod {s : Byte × Byte} (h1 : s.1.toNat ≤ 254) (d : Byte) :
    (flStep s d).1.toNat = (s.1.toNat + d.toNat) % 255 := by
  have hd := d.isLt
  rw [flStep_fst_toNat, wrap255_eq_mod _ (by omega)]

/-- The second sum takes the updated first one. -/
theorem flStep_snd_eq_mod {s : Byte × Byte} (h1 : s.1.toNat ≤ 254) (h2 : s.2.toNat ≤ 254) (d : Byte) :
    (flStep s d).2.toNat = (s.2.toNat + (flStep s d).1.toNat) % 255 := by
  obtain ⟨hfst, -⟩ := flStep_le h1 h2 d
  rw [flStep_snd_toNat, ← flStep_fst_toNat, wrap255_eq_mod _ (by omega)]

/-! ### The commands that write the sums (R106, R107) -/

/-- Settles O17: `0x10` is the opcode of a form Z command, and what the command writes does not depend on the state. -/
theorem ckClrClearsSums : Obligations.CkClrClearsSums :=
  ⟨isZCommand_of_formZ (i := .ckClr) rfl, fun s => completes_ckClr s.params s.blk s rfl rfl⟩

/-- Settles O18: CK_BYTE completes with the sums of `flStep`, which are those of R102. -/
theorem ckByteAddsModulo255 : Obligations.CkByteAddsModulo255 := by
  refine ⟨isOperandCommand_ckByte, fun d s => ?_⟩
  refine ⟨_, completes_ckByte s.params s.blk d s rfl rfl, rfl, fun h1 h2 => ?_⟩
  have hfst : (flStep s.blk.ckSums d).1.toNat = (s.blk.ckS1.toNat + d.toNat) % 255 := flStep_fst_eq_mod h1 d
  exact ⟨hfst, hfst ▸ flStep_snd_eq_mod h1 h2 d⟩

/-! ### A sequence of bytes modulo 255 (R104) -/

/-- The sum of the bytes of a sequence. -/
def byteSum (bs : List Byte) : Nat := (bs.map BitVec.toNat).sum

/-- The sum of the bytes of a sequence, each as often as the bytes from it to the end. -/
def weightedSum : List Byte → Nat
  | [] => 0
  | b :: bs => (bs.length + 1) * b.toNat + weightedSum bs

@[simp] theorem byteSum_cons (b : Byte) (bs : List Byte) : byteSum (b :: bs) = b.toNat + byteSum bs := by
  simp [byteSum]

/-- The weighted sum as R104 writes it: the byte at `j` counts `n - j` times. -/
theorem sum_range_eq_weightedSum (bs : List Byte) :
    ((List.range bs.length).map fun j => (bs.length - j) * ((bs[j]?).getD 0x00#8).toNat).sum = weightedSum bs := by
  induction bs with
  | nil => rfl
  | cons b bs ih =>
    rw [weightedSum, ← ih, List.length_cons, List.range_succ_eq_map, List.map_cons, List.sum_cons, List.map_map]
    simp [Function.comp_def]

/-- The first sum from any accumulators below 255. -/
theorem flFold_fst_modEq {s : Byte × Byte} (h1 : s.1.toNat ≤ 254) (h2 : s.2.toNat ≤ 254) (bs : List Byte) :
    (flFold s bs).1.toNat ≡ s.1.toNat + byteSum bs [MOD 255] := by
  induction bs generalizing s with
  | nil => exact .refl _
  | cons b bs ih =>
    obtain ⟨h1', h2'⟩ := flStep_le h1 h2 b
    have hfst : (flStep s b).1.toNat ≡ s.1.toNat + b.toNat [MOD 255] := flStep_fst_eq_mod h1 b ▸ Nat.mod_modEq _ _
    calc (flFold (flStep s b) bs).1.toNat
      _ ≡ (flStep s b).1.toNat + byteSum bs [MOD 255] := ih h1' h2'
      _ ≡ s.1.toNat + b.toNat + byteSum bs [MOD 255] := hfst.add_right _
      _ = s.1.toNat + byteSum (b :: bs) := by rw [byteSum_cons, Nat.add_assoc]

/-- The second sum from any accumulators below 255: the first one enters it with every byte. -/
theorem flFold_snd_modEq {s : Byte × Byte} (h1 : s.1.toNat ≤ 254) (h2 : s.2.toNat ≤ 254) (bs : List Byte) :
    (flFold s bs).2.toNat ≡ s.2.toNat + bs.length * s.1.toNat + weightedSum bs [MOD 255] := by
  induction bs generalizing s with
  | nil => simpa [weightedSum] using Nat.ModEq.refl _
  | cons b bs ih =>
    obtain ⟨h1', h2'⟩ := flStep_le h1 h2 b
    have hfst : (flStep s b).1.toNat ≡ s.1.toNat + b.toNat [MOD 255] := flStep_fst_eq_mod h1 b ▸ Nat.mod_modEq _ _
    have hsnd : (flStep s b).2.toNat ≡ s.2.toNat + (s.1.toNat + b.toNat) [MOD 255] :=
      (flStep_snd_eq_mod h1 h2 b ▸ Nat.mod_modEq _ _ : _ ≡ _ [MOD 255]).trans (hfst.add_left _)
    calc (flFold (flStep s b) bs).2.toNat
      _ ≡ (flStep s b).2.toNat + bs.length * (flStep s b).1.toNat + weightedSum bs [MOD 255] := ih h1' h2'
      _ ≡ s.2.toNat + (s.1.toNat + b.toNat) + bs.length * (s.1.toNat + b.toNat) + weightedSum bs [MOD 255] :=
        (hsnd.add (hfst.mul_left _)).add_right _
      _ = s.2.toNat + (b :: bs).length * s.1.toNat + weightedSum (b :: bs) := by
        rw [weightedSum, List.length_cons]; ring

/-- The first byte of the checksum is the sum of the bytes modulo 255. -/
theorem hiByte_fletcher16_toNat (bs : List Byte) : (hiByte (fletcher16 bs)).toNat = byteSum bs % 255 := by
  obtain ⟨hle, -⟩ := fletcher16_le bs
  have hmod := flFold_fst_modEq (s := (0x00#8, 0x00#8)) (Nat.zero_le _) (Nat.zero_le _) bs
  rw [← Nat.mod_eq_of_lt (Nat.lt_succ_of_le hle), fletcher16, hiByte_pack, hmod]
  simp

/-- The second byte of the checksum is the weighted sum modulo 255. -/
theorem loByte_fletcher16_toNat (bs : List Byte) : (loByte (fletcher16 bs)).toNat = weightedSum bs % 255 := by
  obtain ⟨-, hle⟩ := fletcher16_le bs
  have hmod := flFold_snd_modEq (s := (0x00#8, 0x00#8)) (Nat.zero_le _) (Nat.zero_le _) bs
  rw [← Nat.mod_eq_of_lt (Nat.lt_succ_of_le hle), fletcher16, loByte_pack, hmod]
  simp

theorem ne_ff_of_toNat_le {b : Byte} (h : b.toNat ≤ 254) : b ≠ 0xFF#8 := by
  rintro rfl
  exact absurd h (by decide)

/-- Settles O21: the two sums modulo 255, and the bound of R102 on both. -/
theorem fletcherClosedForm : Obligations.FletcherClosedForm := by
  intro bs
  obtain ⟨hhi, hlo⟩ := fletcher16_le bs
  exact ⟨hiByte_fletcher16_toNat bs, sum_range_eq_weightedSum bs ▸ loByte_fletcher16_toNat bs,
    ne_ff_of_toNat_le hhi, ne_ff_of_toNat_le hlo⟩

/-! ### Two neighbours exchanged (R104, log 23) -/

theorem byteSum_exchange (as cs : List Byte) (a b : Byte) :
    byteSum (as ++ a :: b :: cs) = byteSum (as ++ b :: a :: cs) :=
  (((List.Perm.swap b a cs).append_left as).map _).sum_eq

/-- Of two neighbours the first counts once more than the second. -/
theorem weightedSum_exchange (as cs : List Byte) (a b : Byte) :
    weightedSum (as ++ a :: b :: cs) + b.toNat = weightedSum (as ++ b :: a :: cs) + a.toNat := by
  induction as with
  | nil => simp only [List.nil_append, weightedSum, List.length_cons]; ring
  | cons x as ih =>
    have hlen : (as ++ a :: b :: cs).length = (as ++ b :: a :: cs).length := by simp
    rw [List.cons_append, List.cons_append, weightedSum, weightedSum, hlen, Nat.add_assoc, ih, Nat.add_assoc]

/-- Settles O22: the sum is the same, and the weighted sums differ by `a - b`, which is 0 modulo 255 exactly when
the two bytes agree modulo 255. -/
theorem exchangeChangesSecondSum : Obligations.ExchangeChangesSecondSum := by
  refine ⟨fun as cs a b => ⟨?_, ?_⟩, by decide, by decide⟩
  · apply BitVec.eq_of_toNat_eq
    rw [hiByte_fletcher16_toNat, hiByte_fletcher16_toNat, byteSum_exchange]
  · have hexchange := weightedSum_exchange as cs a b
    rw [← BitVec.toNat_inj, loByte_fletcher16_toNat, loByte_fletcher16_toNat]
    omega

/-! ### The end-around carry (R105) -/

/-- The carry out of 8 bits is worth 256, which is 1 modulo 255, so it is added back at the low end. -/
theorem carryAdd_toNat {s : Byte} (hs : s.toNat ≤ 254) (d : Byte) :
    (carryAdd s d).toNat = wrap255 (s.toNat + d.toNat) := by
  have hd := d.isLt
  by_cases hcarry : 255 - s.toNat < d.toNat
  · have hsum : (s + 1#8 + d).toNat = s.toNat + d.toNat - 255 := by
      rw [BitVec.toNat_add, BitVec.toNat_add, BitVec.toNat_ofNat]; omega
    have hne : s + 1#8 + d ≠ 255#8 := ne_ff_of_toNat_le (by omega)
    rw [carryAdd, if_pos hcarry, if_neg hne, hsum, wrap255, if_pos (by omega)]
  · have hsum : (s + d).toNat = s.toNat + d.toNat := by
      rw [BitVec.toNat_add]; omega
    rw [carryAdd, if_neg hcarry, wrap255, ← hsum]
    by_cases hfull : s + d = 255#8
    · rw [if_pos hfull, hfull]; rfl
    · have hne : (s + d).toNat ≠ 255 := fun h => hfull (BitVec.eq_of_toNat_eq h)
      rw [if_neg hfull, if_neg (by omega)]

/-- Settles O23: both additions of a step wrap at 255 as `wrap255` does. -/
theorem carryFormAgrees : Obligations.CarryFormAgrees := by
  intro s1 s2 d h1 h2
  have hfst : carryAdd s1 d = (flStep (s1, s2) d).1 :=
    BitVec.eq_of_toNat_eq (by rw [carryAdd_toNat h1, flStep_fst_toNat])
  refine Prod.ext hfst (BitVec.eq_of_toNat_eq ?_)
  calc (carryAdd s2 (carryAdd s1 d)).toNat
    _ = wrap255 (s2.toNat + (carryAdd s1 d).toNat) := carryAdd_toNat h2 _
    _ = (flStep (s1, s2) d).2.toNat := by rw [carryAdd_toNat h1, flStep_snd_toNat]

end Sys2Proof.Machine
end

section
/-! SUPPORT. Unit ENC: what its commands answer, the wire image as a function, and a frame handed to TXL byte by byte, told
by the blocks between the bytes. -/

namespace Sys2Proof.Machine

/-! ### The commands of ENC (R125 to R130) -/

/-- A command refused while busy answers ERR_BUSY and writes nothing (R212, R214). -/
theorem settle_unlessBusy_busy {s : State} (k : Result State) (hbusy : s.blk.encPhase ≠ .idle) :
    settle (unlessBusy s k) = .next { s with rsp := some ⟨.busy, 0x0000#16⟩ } := by
  rw [unlessBusy_busy k hbusy]
  rfl

/-- Settles O24: idle, the payload length alone is written; busy, nothing is. -/
theorem encClrEmptiesPayload : Obligations.EncClrEmptiesPayload :=
  ⟨isZCommand_of_formZ (i := .encClr) rfl, fun _ => ⟨exec_encClr_idle, settle_unlessBusy_busy _⟩⟩

theorem exec_encLoad_full {s : State} (d : Byte) (hidle : s.blk.encPhase = .idle)
    (hfull : s.blk.txlen.toNat = s.params.txcap) : exec (.encLoad d) s = .next (raiseErr .full s) := by
  rw [exec, execEncLoad, unlessBusy_idle _ hidle, if_pos hfull, settle_ok]

theorem exec_encLoad_stored {s : State} (d : Byte) (hidle : s.blk.encPhase = .idle)
    (hroom : s.blk.txlen.toNat < s.params.txcap) :
    exec (.encLoad d) s = .next (respond 0x0000#16 (s.withBlk
      { s.blk with tx := Memory.write s.blk.tx s.blk.txlen.toNat d, txlen := s.blk.txlen + 1#8 })) := by
  rw [exec, execEncLoad, unlessBusy_idle _ hidle, if_neg (Nat.ne_of_lt hroom), writeTx_of_lt hroom, onOk_ok, settle_ok]
  rfl

theorem storedAt_write (m : Memory) (i : Nat) (v : Byte) : StoredAt m (Memory.write m i v) i v :=
  ⟨Memory.read?_write_same m i v, fun j hj => Memory.read?_write_other m i j v hj⟩

/-- Settles O25: `txlen + 1` is no more than TXCAP, so the count does not wrap. -/
theorem encLoadAppendsByte : Obligations.EncLoadAppendsByte := by
  refine ⟨isOperandCommand_encLoad, fun d s hwf =>
    ⟨settle_unlessBusy_busy _, exec_encLoad_full d, fun hidle hroom => ?_⟩⟩
  obtain ⟨-, -, -, htxcap⟩ := Params.wf_iff.1 hwf
  exact ⟨_, exec_encLoad_stored d hidle hroom, rfl, toNat_add_one (by omega), storedAt_write _ _ _⟩

/-- ENC_SEND latches the checksum over what it read from TX. -/
theorem exec_encSend_of_read {s t : State} {bs : List Byte} (hidle : s.blk.encPhase = .idle)
    (hread : readTxSpan s.blk.txlen.toNat 0 s = .ok (bs, t)) :
    exec .encSend s = .next (respond 0x0000#16 (t.withBlk
      { t.blk with encCk := fletcher16 (s.blk.txlen :: bs), encIdx := 0x00#8, encPhase := .start })) := by
  rw [exec, execEncSend, unlessBusy_idle _ hidle, hread, onOk_ok, settle_ok]

/-- Settles O26: a span inside TX can always be read, and a written one reads as it was written. -/
theorem encSendStartsFrame : Obligations.EncSendStartsFrame := by
  refine ⟨isZCommand_of_formZ (i := .encSend) rfl, fun s htxlen =>
    ⟨settle_unlessBusy_busy _, fun hidle p hp => ?_, fun hidle => ?_⟩⟩
  · exact exec_encSend_of_read hidle (readTxSpan_of_holdsPayload hp (hp.1 ▸ htxlen))
  · obtain ⟨bs, k, -, hread⟩ := readTxSpan_total s.blk.txlen.toNat 0 s (by omega)
    exact ⟨_, exec_encSend_of_read hidle hread, rfl⟩

theorem exec_encRdbuf_of_lt {k : Nat} {s : State} (hk : k < s.params.txcap) :
    exec (.encRdbuf k) s = .next (respond (zext16 (readCell s.blk.tx k s).1) (readCell s.blk.tx k s).2) := by
  simp only [exec, execEncRdbuf, if_neg (Nat.not_le.2 hk), readTx_of_lt hk, onOk_ok, settle_ok]

/-- Settles O27: in range it answers the cell read, which is the written byte where there is one. -/
theorem encRdbufReadsTx : Obligations.EncRdbufReadsTx := by
  refine ⟨isOperandCommand_encRdbuf, fun i s => ⟨exec_encRdbuf_of_le, fun hi =>
    ⟨(readCell s.blk.tx i s).1, _, exec_encRdbuf_of_lt hi, ?_⟩⟩⟩
  obtain ⟨v, hv, hcell⟩ | ⟨hnone, hcell⟩ := readCell_cases s.blk.tx i s
  · rw [hcell]
    exact ⟨rfl, fun u hu => ⟨Option.some.inj (hv.symm.trans hu), rfl⟩⟩
  · rw [hcell]
    exact ⟨rfl, fun u hu => absurd (hnone.symm.trans hu) (by simp)⟩

/-! ### The wire image as a function (R121 to R124) -/

/-- The trigger values as numbers (R10). -/
theorem needsEscape_eq : needsEscape = fun b => decide (b = 0x7E#8 ∨ b = 0x7D#8) :=
  funext fun b => (Bool.decide_or (b = Config.START) (b = Config.ESC)).symm

theorem needsEscape_iff {b : Byte} : needsEscape b = true ↔ b = 0x7E#8 ∨ b = 0x7D#8 := by
  rw [needsEscape_eq, decide_eq_true_iff]

theorem needsEscape_eq_false_iff {b : Byte} : needsEscape b = false ↔ b ≠ 0x7E#8 ∧ b ≠ 0x7D#8 := by
  rw [← Bool.not_eq_true, needsEscape_iff, not_or]

theorem length_esc (b : Byte) : (esc b).length = 1 + (needsEscape b).toNat := by
  cases h : needsEscape b with
  | true => rw [esc_trigger h]; rfl
  | false => rw [esc_plain h]; rfl

/-- Each payload byte takes one byte on the wire, and one more if it is a trigger value. -/
theorem length_escAll (p : List Byte) : (escAll p).length = p.length + escCount p := by
  induction p with
  | nil => rfl
  | cons b p ih =>
    have hcount : escCount (b :: p) = escCount p + (needsEscape b).toNat := by
      cases h : needsEscape b <;> simp [escCount, h]
    rw [escAll_cons, List.length_append, length_esc, ih, hcount, List.length_cons]
    omega

theorem length_wireImage (p : List Byte) : (wireImage p).length = p.length + escCount p + 4 := by
  simp only [wireImage, List.length_append, length_escAll, List.length_cons, List.length_nil]
  omega

/-- Settles O31: the escaped span, and the start, length and checksum bytes around it. -/
theorem wireImageLength : Obligations.WireImageLength := fun p => by
  rw [length_wireImage, escCount, needsEscape_eq]

/-- Behind the escape lead stands 0x5E or 0x5D. -/
theorem xor_xmask_of_needsEscape {b : Byte} (h : needsEscape b = true) :
    b ^^^ Config.XMASK = 0x5E#8 ∨ b ^^^ Config.XMASK = 0x5D#8 := by
  obtain rfl | rfl := needsEscape_iff.1 h
  · exact .inl rfl
  · exact .inr rfl

theorem start_not_mem_esc (b : Byte) : 0x7E#8 ∉ esc b := by
  cases h : needsEscape b with
  | true =>
    rw [esc_trigger h]
    obtain hsecond | hsecond := xor_xmask_of_needsEscape h <;> rw [hsecond] <;> decide
  | false =>
    obtain ⟨hne, -⟩ := needsEscape_eq_false_iff.1 h
    rw [esc_plain h, List.mem_singleton]
    exact hne.symm

theorem start_not_mem_escAll (p : List Byte) : 0x7E#8 ∉ escAll p := fun h => by
  obtain ⟨b, -, hb⟩ := List.mem_flatMap.1 h
  exact start_not_mem_esc b hb

/-- In an escaped span 0x7D is an escape lead: the second byte of an escape is none, nor is a byte sent plain. -/
theorem escAll_getElem?_after_lead (p : List Byte) (j : Nat) (hj : (escAll p)[j]? = some 0x7D#8) :
    (escAll p)[j + 1]? = some 0x5E#8 ∨ (escAll p)[j + 1]? = some 0x5D#8 := by
  induction p generalizing j with
  | nil => cases hj
  | cons b p ih =>
    cases h : needsEscape b with
    | true =>
      have hsecond := xor_xmask_of_needsEscape h
      rw [escAll_cons, esc_trigger h] at hj ⊢
      match j with
      | 0 => exact hsecond.imp (congrArg some) (congrArg some)
      | 1 =>
        rw [Option.some.inj hj] at hsecond
        exact absurd hsecond (by decide)
      | j + 2 => exact ih j hj
    | false =>
      obtain ⟨-, hne⟩ := needsEscape_eq_false_iff.1 h
      rw [escAll_cons, esc_plain h] at hj ⊢
      match j with
      | 0 => exact absurd (Option.some.inj hj) hne
      | j + 1 => exact ih j hj

/-- Settles O32: the two facts of the escaped span, and R102's bound on the checksum bytes. -/
theorem escapedSpanIsUnambiguous : Obligations.EscapedSpanIsUnambiguous := by
  intro p
  obtain ⟨hhi, hlo⟩ := fletcher16_le (lenByte p :: p)
  exact ⟨start_not_mem_escAll p, escAll_getElem?_after_lead p, ne_ff_of_toNat_le hhi, ne_ff_of_toNat_le hlo, rfl⟩

/-! ### Bytes handed to TXL -/

/-- At capacities `P`, from the block `b` and busy, TXL takes the byte `x` and leaves the block `b'`. -/
structure Hands (P : Params) (b : Block) (x : Byte) (b' : Block) : Prop where
  busy : b.encPhase ≠ .idle
  byte : ∀ s : State, s.params = P → s.blk = b → txlStep s = .ok (emit x (s.withBlk b'))

/-- The bytes of a list are handed over one after another, from the first block to the last. -/
inductive HandsAll (P : Params) : Block → List Byte → Block → Prop where
  | nil (b : Block) : HandsAll P b [] b
  | cons {b b' b'' : Block} {x : Byte} {xs : List Byte} (hfirst : Hands P b x b') (hrest : HandsAll P b' xs b'') :
      HandsAll P b (x :: xs) b''

theorem HandsAll.append {P : Params} {b b' b'' : Block} {xs ys : List Byte} (h : HandsAll P b xs b')
    (h' : HandsAll P b' ys b'') : HandsAll P b (xs ++ ys) b'' := by
  induction h with
  | nil => exact h'
  | cons hfirst _ ih => exact .cons hfirst (ih h')

/-- The state after the bytes `xs` were handed to TXL and the block became `b`. -/
def State.handed (s : State) (xs : List Byte) (b : Block) : State :=
  { s with blk := b, rsp := if xs = [] then s.rsp else none, txLog := s.txLog ++ xs }

/-- A TXL step on a byte that is handed over. -/
theorem step_of_hands {s : State} {x : Byte} {b : Block} {rest : List Turn} (hsched : s.sched = .txl :: rest)
    (hrst : s.rstN = true) (h : Hands s.params s.blk x b) : step s = .next { s.handed [x] b with sched := rest } := by
  rw [step_turn hsched, takeTurn, txlTurn_enabled (s := beginStep rest s) hrst h.busy, h.byte (beginStep rest s) rfl rfl]
  rfl

/-- A first byte and the rest of a list leave the state of the whole list. -/
theorem State.handed_cons (s : State) (x : Byte) (xs : List Byte) (b b' : Block) :
    (s.handed [x] b).handed xs b' = s.handed (x :: xs) b' := by
  simp [State.handed]

/-- Playing a TXL turn for each byte that is handed over. -/
theorem playTurns_of_handsAll {P : Params} {b b' : Block} {xs : List Byte} (h : HandsAll P b xs b') {s : State}
    (hrst : s.rstN = true) (hparams : s.params = P) (hblk : s.blk = b) :
    playTurns (List.replicate xs.length .txl) s = .next (s.handed xs b') := by
  induction h generalizing s with
  | nil =>
    subst hblk
    simp [State.handed]
  | @cons _ b₁ _ x xs hfirst _ ih =>
    subst hparams hblk
    rw [List.length_cons, List.replicate_succ, playTurns_step (u := s.handed [x] b₁) (step_of_hands rfl hrst hfirst),
      ih (s := s.handed [x] b₁) hrst rfl rfl, State.handed_cons]

/-! ### The bytes of a frame, phase by phase (R132 to R137) -/

theorem readTx_of_written {i : Nat} {v : Byte} {s : State} (hcap : i < s.params.txcap)
    (hread : Memory.read? s.blk.tx i = some v) : readTx i s = .ok (v, s) := by
  rw [readTx_of_lt hcap, readCell_of_some s hread]

section
variable {P : Params} {b : Block} {v : Byte}

theorem hands_start (hphase : b.encPhase = .start) : Hands P b Config.START { b with encPhase := .len } := by
  refine ⟨by simp [hphase], ?_⟩
  rintro s rfl rfl
  simp only [txlStep, hphase]

theorem hands_len (hphase : b.encPhase = .len) : Hands P b b.txlen b.afterLenByte := by
  refine ⟨by simp [hphase], ?_⟩
  rintro s rfl rfl
  simp only [txlStep, hphase]

/-- A trigger value goes out as the escape lead first; `enc_idx` stays. -/
theorem hands_lead (hphase : b.encPhase = .data) (hcap : b.encIdx.toNat < P.txcap)
    (hread : Memory.read? b.tx b.encIdx.toNat = some v) (hv : needsEscape v = true) :
    Hands P b Config.ESC { b with encPhase := .esc2 } := by
  refine ⟨by simp [hphase], ?_⟩
  rintro s rfl rfl
  simp only [txlStep, hphase, readTx_of_written hcap hread, onOk_ok, hv, if_true]

theorem hands_plain (hphase : b.encPhase = .data) (hcap : b.encIdx.toNat < P.txcap)
    (hread : Memory.read? b.tx b.encIdx.toNat = some v) (hv : needsEscape v = false) :
    Hands P b v b.afterPayloadByte := by
  refine ⟨by simp [hphase], ?_⟩
  rintro s rfl rfl
  simp only [txlStep, hphase, readTx_of_written hcap hread, onOk_ok, hv, Bool.false_eq_true, if_false]

theorem hands_escaped (hphase : b.encPhase = .esc2) (hcap : b.encIdx.toNat < P.txcap)
    (hread : Memory.read? b.tx b.encIdx.toNat = some v) : Hands P b (v ^^^ Config.XMASK) b.afterPayloadByte := by
  refine ⟨by simp [hphase], ?_⟩
  rintro s rfl rfl
  simp only [txlStep, hphase, readTx_of_written hcap hread, onOk_ok]

theorem hands_ck1 (hphase : b.encPhase = .ck1) : Hands P b (hiByte b.encCk) { b with encPhase := .ck2 } := by
  refine ⟨by simp [hphase], ?_⟩
  rintro s rfl rfl
  simp only [txlStep, hphase]

theorem hands_ck2 (hphase : b.encPhase = .ck2) : Hands P b (loByte b.encCk) { b with encPhase := .idle } := by
  refine ⟨by simp [hphase], ?_⟩
  rintro s rfl rfl
  simp only [txlStep, hphase]

end

/-- Settles O29: the step of each phase that reads no payload byte. -/
theorem txlLiteralBytes : Obligations.TxlLiteralBytes := fun _ _ hsched hrst =>
  ⟨fun hphase => step_of_hands hsched hrst (hands_start hphase),
    fun hphase => step_of_hands hsched hrst (hands_len hphase),
    fun hphase => step_of_hands hsched hrst (hands_ck1 hphase),
    fun hphase => step_of_hands hsched hrst (hands_ck2 hphase)⟩

theorem ofNat_succ_toNat (c : Byte) : BitVec.ofNat 8 (c.toNat + 1) = c + 1#8 := by
  rw [BitVec.ofNat_add, BitVec.ofNat_toNat, BitVec.setWidth_eq]

/-- Settles O30: the lead, the plain byte and the second byte of an escape. -/
theorem txlPayloadBytes : Obligations.TxlPayloadBytes := by
  intro s rest b hsched hrst hcap hread
  rw [ofNat_succ_toNat]
  refine ⟨fun hphase htrigger => ?_, fun hphase hstart hesc => ?_, fun hphase => ?_⟩
  · exact step_of_hands hsched hrst (hands_lead hphase hcap hread (needsEscape_iff.2 htrigger))
  · exact step_of_hands hsched hrst (hands_plain hphase hcap hread (needsEscape_eq_false_iff.2 ⟨hstart, hesc⟩))
  · exact step_of_hands hsched hrst (hands_escaped hphase hcap hread)

/-! ### A whole frame (R138, R140) -/

/-- The block `b` while the payload is being sent, with the byte at index `i` next: CK1 behind the last one (R134, R135). -/
def Block.sendingFrom (b : Block) (i : Nat) : Block :=
  { b with encIdx := BitVec.ofNat 8 i, encPhase := if i = b.txlen.toNat then .ck1 else .data }

section
variable {P : Params} {b : Block} {i : Nat}

/-- After the length byte the payload is sent from its first byte on; an empty one is at its end. -/
theorem Block.afterLenByte_eq_sendingFrom (phase : EncPhase) :
    Block.afterLenByte { b with encPhase := phase } = b.sendingFrom 0 := by
  have hempty : b.txlen = 0x00#8 ↔ 0 = b.txlen.toNat := by
    rw [← BitVec.toNat_inj]
    exact eq_comm
  simp only [Block.afterLenByte, Block.sendingFrom, hempty]

theorem Block.afterPayloadByte_sendingFrom (phase : EncPhase) (hlt : i < b.txlen.toNat) :
    Block.afterPayloadByte { b.sendingFrom i with encPhase := phase } = b.sendingFrom (i + 1) := by
  have hidx : (BitVec.ofNat 8 i).toNat = i := toNat_ofNat_of_lt (Nat.lt_trans hlt b.txlen.isLt)
  simp only [Block.afterPayloadByte, Block.sendingFrom, hidx, BitVec.ofNat_add]

/-- Behind the last payload byte `enc_idx` is `txlen`. -/
theorem Block.sendingFrom_txlen (b : Block) :
    b.sendingFrom b.txlen.toNat = { b with encIdx := b.txlen, encPhase := .ck1 } := by
  simp only [Block.sendingFrom, BitVec.ofNat_toNat, BitVec.setWidth_eq, if_true]

/-- A payload byte is handed over as its escaped form, in one step or two. -/
theorem handsAll_esc {v : Byte} (hread : Memory.read? b.tx i = some v) (hlt : i < b.txlen.toNat) (hcap : i < P.txcap) :
    HandsAll P (b.sendingFrom i) (esc v) (b.sendingFrom (i + 1)) := by
  have hphase : (b.sendingFrom i).encPhase = .data := if_neg (Nat.ne_of_lt hlt)
  have hidx : (b.sendingFrom i).encIdx.toNat = i := toNat_ofNat_of_lt (Nat.lt_trans hlt b.txlen.isLt)
  have hread : Memory.read? (b.sendingFrom i).tx (b.sendingFrom i).encIdx.toNat = some v := hidx.symm ▸ hread
  have hcap : (b.sendingFrom i).encIdx.toNat < P.txcap := hidx.symm ▸ hcap
  cases htrigger : needsEscape v with
  | true =>
    rw [esc_trigger htrigger, ← Block.afterPayloadByte_sendingFrom .esc2 hlt]
    exact .cons (hands_lead hphase hcap hread htrigger) (.cons (hands_escaped rfl hcap hread) (.nil _))
  | false =>
    rw [esc_plain htrigger, ← Block.afterPayloadByte_sendingFrom (b.sendingFrom i).encPhase hlt]
    exact .cons (hands_plain hphase hcap hread htrigger) (.nil _)

/-- A held span is its first byte and the span behind it. -/
theorem HoldsAt.uncons {m : Memory} {v : Byte} {q : List Byte} (h : HoldsAt m i (v :: q)) :
    Memory.read? m i = some v ∧ HoldsAt m (i + 1) q := by
  refine ⟨h 0 (Nat.succ_pos _), fun j hj => ?_⟩
  rw [Nat.add_right_comm]
  exact h (j + 1) (Nat.succ_lt_succ hj)

theorem handsAll_escAll {q : List Byte} (hq : HoldsAt b.tx i q) (hend : i + q.length ≤ b.txlen.toNat)
    (hcap : i + q.length ≤ P.txcap) : HandsAll P (b.sendingFrom i) (escAll q) (b.sendingFrom (i + q.length)) := by
  induction q generalizing i with
  | nil => exact .nil _
  | cons v q ih =>
    obtain ⟨hread, hrest⟩ := hq.uncons
    have hlength : i + (v :: q).length = i + 1 + q.length := by rw [List.length_cons]; omega
    rw [hlength] at hend hcap ⊢
    exact (handsAll_esc hread (by omega) (by omega)).append (ih hrest hend hcap)

end

/-- The block after ENC_SEND with the payload `p` in TX (R127). -/
def Block.sendStarted (b : Block) (p : List Byte) : Block :=
  { b with encCk := frameCk p, encIdx := 0x00#8, encPhase := .start }

/-- The block after the whole frame of the payload `p` went out (R137, R140). -/
def Block.frameDone (b : Block) (p : List Byte) : Block :=
  { b with encCk := frameCk p, encIdx := b.txlen, encPhase := .idle }

theorem completes_encSend_of_holdsPayload {P : Params} {b : Block} {p : List Byte} (hidle : b.encPhase = .idle)
    (hp : HoldsPayload b p) (hcap : p.length ≤ P.txcap) : Completes P b .encSend 0x0000#16 (b.sendStarted p) := by
  rintro s rfl rfl
  rw [exec_encSend_of_read hidle (readTxSpan_of_holdsPayload hp hcap), Block.sendStarted, frameCk,
    lenByte_of_holdsPayload hp]

/-- After ENC_SEND the wire image is handed over: the start marker and the length byte, the escaped payload, and the two
bytes of the latched checksum. -/
theorem handsAll_wireImage {P : Params} {b : Block} {p : List Byte} (hp : HoldsPayload b p)
    (hcap : p.length ≤ P.txcap) : HandsAll P (b.sendStarted p) (wireImage p) (b.frameDone p) := by
  have hlast : (b.sendStarted p).sendingFrom p.length = { b.frameDone p with encPhase := .ck1 } := by
    rw [← hp.1]
    exact (b.sendStarted p).sendingFrom_txlen
  have hhead : HandsAll P (b.sendStarted p) [Config.START, lenByte p] ((b.sendStarted p).sendingFrom 0) := by
    rw [lenByte_of_holdsPayload hp, ← Block.afterLenByte_eq_sendingFrom .len]
    exact .cons (hands_start rfl) (.cons (hands_len (b := { b.sendStarted p with encPhase := .len }) rfl) (.nil _))
  have hpayload : HandsAll P ((b.sendStarted p).sendingFrom 0) (escAll p) { b.frameDone p with encPhase := .ck1 } := by
    obtain ⟨hlen, hbytes⟩ := hp
    rw [← hlast, ← Nat.zero_add p.length]
    exact handsAll_escAll hbytes (by rw [Nat.zero_add]; exact hlen.ge) (by rw [Nat.zero_add]; exact hcap)
  have hck : HandsAll P { b.frameDone p with encPhase := .ck1 } [hiByte (frameCk p), loByte (frameCk p)]
      (b.frameDone p) :=
    .cons (hands_ck1 rfl) (.cons (hands_ck2 rfl) (.nil _))
  exact (hhead.append hpayload).append hck

/-- Settles O33: ENC_SEND latches the checksum and starts the frame, and TXL takes a byte of the wire image on each turn. -/
theorem sendEmitsWireImage : Obligations.SendEmitsWireImage := by
  intro s p hcap hrst hidle hp
  have hsend := completes_encSend_of_holdsPayload hidle hp hcap
  have hword : 0x2200#16 = encode .encSend := rfl
  have hframe := playTurns_of_handsAll (handsAll_wireImage hp hcap)
    (s := s.answered (encode .encSend) 0x0000#16 (s.blk.sendStarted p)) hrst rfl rfl
  rw [← length_wireImage, hword, playTurns_step (step_of_completes hrst rfl hsend), hframe]
  exact ⟨_, rfl, rfl, rfl, rfl, rfl⟩

end Sys2Proof.Machine
end

section
/-! SUPPORT. Unit DEC: what its commands answer, what each received byte does, and what leaves a decode attempt alone. -/

namespace Sys2Proof.Machine

/-! ### The commands of DEC (R170 to R176) -/

theorem exec_decNext_held {s : State} (hhold : s.blk.decPhase = .hold) :
    exec .decNext s = .next (respond 0x0000#16 (s.withBlk s.blk.toHunt)) := by
  rw [exec, execDecNext, if_neg (not_not.2 hhold)]

theorem exec_decNext_not_held {s : State} (hhold : s.blk.decPhase ≠ .hold) :
    exec .decNext s = .next (raiseErr .state s) := by
  rw [exec, execDecNext, if_pos hhold]

/-- Settles O48: the answer depends on the phase alone. -/
theorem decNextReleasesHold : Obligations.DecNextReleasesHold :=
  ⟨isZCommand_of_formZ (i := .decNext) rfl, fun _ => ⟨exec_decNext_held, exec_decNext_not_held⟩⟩

/-- Settles O49: DEC_ABORT reads no register, so no phase bears on it. -/
theorem decAbortAbandonsAttempt : Obligations.DecAbortAbandonsAttempt :=
  ⟨isZCommand_of_formZ (i := .decAbort) rfl, fun _ => rfl⟩

/-- Settles O51: DEC_CLRZ reads no register, so no phase bears on it. -/
theorem decClrzClearsFlag : Obligations.DecClrzClearsFlag :=
  ⟨isZCommand_of_formZ (i := .decClrz) rfl, fun _ => rfl⟩

theorem exec_decRdbuf_of_lt {k : Nat} {s : State} (hk : k < s.params.cap) :
    exec (.decRdbuf k) s = .next (respond (zext16 (readCell s.blk.rx k s).1) (readCell s.blk.rx k s).2) := by
  simp only [exec, execDecRdbuf, if_neg (Nat.not_le.2 hk), readRx_of_lt hk, onOk_ok, settle_ok]

/-- Settles O50: in range it answers the cell read, which is the written byte where there is one. -/
theorem decRdbufReadsRx : Obligations.DecRdbufReadsRx := by
  refine ⟨isOperandCommand_decRdbuf, fun i s => ⟨exec_decRdbuf_of_le, fun hi =>
    ⟨_, _, exec_decRdbuf_of_lt hi, congrArg (respond _) (readCell_frame s.blk.rx i s), fun u hu => ?_⟩⟩⟩
  rw [readCell_of_some s hu]
  exact ⟨rfl, rfl⟩

/-! ### One received byte, phase by phase (R152 to R161) -/

section
variable {P : Params} {b : Block} {w : Byte}

/-- In HUNT every byte but the start marker is discarded (R152). -/
theorem takes_skip (hphase : b.decPhase = .hunt) (hw : w ≠ Config.START) : Takes P b w b := by
  refine ⟨by simp [hphase], ?_⟩
  rintro s rfl rfl
  simp only [rxlByte, hphase, if_neg hw]
  rfl

/-- The length byte is stored and judged, whatever it is (R153). -/
theorem takes_length (hphase : b.decPhase = .len) (hcap : 0 < P.cap) :
    Takes P b w (Block.judgeLength P w (Block.startFrame { b with rx := Memory.write b.rx 0 w } w)) := by
  refine ⟨by simp [hphase], ?_⟩
  rintro s rfl rfl
  simp only [rxlByte, hphase, writeRx_of_lt hcap, onOk_ok]
  rfl

theorem takes_lead (hphase : b.decPhase = .data) : Takes P b Config.ESC { b with decPhase := .esc } := by
  refine ⟨by simp [hphase], ?_⟩
  rintro s rfl rfl
  exact rxlByte_escape hphase

/-- A payload byte, sent plain or behind the escape lead, is stored and counted (R157, R159). -/
theorem takes_payload {v : Byte} (hcap : 1 + b.decIdx.toNat < P.cap)
    (hv : (b.decPhase = .data ∧ w ≠ Config.ESC ∧ v = w) ∨ (b.decPhase = .esc ∧ v = w ^^^ Config.XMASK)) :
    Takes P b w (Block.countPayload { b with rx := Memory.write b.rx (1 + b.decIdx.toNat) v } v) := by
  obtain ⟨hphase, hw, rfl⟩ | ⟨hphase, rfl⟩ := hv
  · refine ⟨by simp [hphase], ?_⟩
    rintro s rfl rfl
    rw [rxlByte_plain hphase hw, storePayload_of_lt hcap]
  · refine ⟨by simp [hphase], ?_⟩
    rintro s rfl rfl
    simp only [rxlByte, hphase, storePayload_of_lt hcap]

theorem takes_firstCk (hphase : b.decPhase = .ck1) (hcap : b.decLen.toNat + 1 < P.cap) :
    Takes P b w { b with rx := Memory.write b.rx (b.decLen.toNat + 1) w, decPhase := .ck2 } := by
  refine ⟨by simp [hphase], ?_⟩
  rintro s rfl rfl
  exact rxlByte_ck1 hphase hcap

/-- The second checksum byte is judged with the first, whatever they are (R161). -/
theorem takes_lastCk {hi : Byte} (hphase : b.decPhase = .ck2) (hcap : b.decLen.toNat + 2 < P.cap)
    (hread : Memory.read? b.rx (b.decLen.toNat + 1) = some hi) :
    Takes P b w { b with
      rx := Memory.write b.rx (b.decLen.toNat + 2) w
      decResult := if pack hi w = pack b.decS1 b.decS2 then .ok else .ckfail
      decPhase := .hold } := by
  refine ⟨by simp [hphase], ?_⟩
  rintro s rfl rfl
  exact rxlByte_ck2 hphase hcap hread

end

/-- RXL's turn, first in the schedule, on a byte that is taken. -/
theorem step_rxl_of_takes {s : State} {w : Byte} {q : List Byte} {b : Block} {rest : List Turn}
    (hsched : s.sched = .rxl :: rest) (hrst : s.rstN = true) (hq : s.rxq = w :: q) (h : Takes s.params s.blk w b) :
    step s = .next { s.received w q b with sched := rest } := by
  have hstep := step_of_takes (rest := rest) hrst hq h
  rw [← hsched] at hstep
  exact hstep

/-- Settles O35: in HUNT the start marker writes the phase, and any other byte nothing. -/
theorem rxlHuntsForStart : Obligations.RxlHuntsForStart := by
  intro s rest w ws hsched hrst hq hphase
  refine ⟨fun hw => ?_, fun hw => step_rxl_of_takes hsched hrst hq (takes_skip hphase hw)⟩
  subst hw
  exact step_rxl_of_takes hsched hrst hq (takes_start hphase)

/-- The three outcomes of a length byte, register by register: zero (R155), overflow (R156), accepted (R154). -/
theorem Block.judgeLength_eq (P : Params) (w : Byte) (b : Block) :
    Block.judgeLength P w b = { b with
      zlen := if w = 0x00#8 then true else b.zlen
      decResult := if P.lmax < w.toNat then .lenovf else b.decResult
      decPhase := if w = 0x00#8 then .hunt else if P.lmax < w.toNat then .hold else .data } := by
  by_cases hzero : w = 0x00#8
  · subst hzero
    rfl
  · by_cases hmax : P.lmax < w.toNat <;> simp [Block.judgeLength, hzero, hmax]

/-- Settles O36: the length byte has its place in RX at any capacity, and is judged behind the stores. -/
theorem rxlTakesLength : Obligations.RxlTakesLength := by
  intro s rest w ws hsched hrst hq hphase hwf
  obtain ⟨hcap, -⟩ := Params.wf_iff.1 hwf
  refine ⟨_, step_rxl_of_takes hsched hrst hq (takes_length hphase (by omega)), ?_, ?_⟩
  · rw [Block.judgeLength_eq]
    exact storedAt_write _ _ _
  · rw [Block.judgeLength_eq]
    rfl

/-- Settles O37: the lead writes the phase alone, and a byte that is stored is counted in the same step. -/
theorem rxlTakesPayload : Obligations.RxlTakesPayload := by
  intro s rest w ws hsched hrst hq hcap
  refine ⟨fun hphase hw => ?_, fun v hv => ?_⟩
  · subst hw
    exact step_rxl_of_takes hsched hrst hq (takes_lead hphase)
  · refine ⟨_, step_rxl_of_takes hsched hrst hq (takes_payload hcap hv), storedAt_write _ _ _, ?_⟩
    rw [ofNat_succ_toNat]
    rfl

theorem pack_inj {a b c d : Byte} : pack a b = pack c d ↔ a = c ∧ b = d := by
  refine ⟨fun h => ⟨?_, ?_⟩, fun ⟨hhi, hlo⟩ => by rw [hhi, hlo]⟩
  · simpa using congrArg hiByte h
  · simpa using congrArg loByte h

/-- Settles O38: the first byte of the pair is stored, and the second is judged with it. -/
theorem rxlJudgesChecksum : Obligations.RxlJudgesChecksum := by
  intro s rest w ws hsched hrst hq hcap
  refine ⟨fun hphase => ?_, fun hphase hi hread => ?_⟩
  · exact ⟨_, step_rxl_of_takes hsched hrst hq (takes_firstCk hphase (by omega)), storedAt_write _ _ _, rfl⟩
  · refine ⟨_, step_rxl_of_takes hsched hrst hq (takes_lastCk hphase hcap hread), storedAt_write _ _ _, ?_⟩
    simp only [pack_inj]
    rfl

/-! ### A decode attempt (R171) -/

/-- Outside HOLD, DEC_NEXT writes nothing: of the commands only SRST and DEC_ABORT touch an attempt. -/
theorem CommandWrites.sameDecFrame_of_not_held {P : Params} {b b' : Block} {i : Instr} (h : CommandWrites P b i b')
    (hhold : b.decPhase ≠ .hold) (hsrst : i ≠ .srst) (habort : i ≠ .decAbort) : SameDecFrame b b' := by
  by_cases hnext : i = .decNext
  · subst hnext
    cases h with
    | nothing => exact .refl b
    | decNext hheld => exact absurd hheld hhold
  · exact h.sameDecFrame hsrst hnext habort

theorem not_held_of_inAttempt {p : DecPhase} (h : p.inAttempt = true) : p ≠ .hold := by
  rintro rfl
  cases h

/-- Settles O46: of the writes of a step, only those of a received byte, DEC_ABORT, SRST and a hard reset touch an
attempt. -/
theorem attemptEndsOnlyAsNamed : Obligations.AttemptEndsOnlyAsNamed := by
  intro s t turn rest hs hattempt h
  obtain ⟨-, -, -, hwrites⟩ := step_cases hs h
  generalize t.blk = b at hwrites
  cases hwrites with
  | nothing => exact .inl (.refl _)
  | command w i _ hword hb =>
    by_cases hends : i = .srst ∨ i = .decAbort
    · obtain rfl | rfl := hends <;> subst hword
      · exact .inr (.inr (.inr (.inr rfl)))
      · exact .inr (.inr (.inr (.inl rfl)))
    · obtain ⟨hsrst, habort⟩ := not_or.1 hends
      exact .inl (hb.sameDecFrame_of_not_held (not_held_of_inAttempt hattempt) hsrst habort)
  | rxl => exact .inr (.inl rfl)
  | txl x _ hb => exact .inl hb.sameDec.1
  | hardReset => exact .inr (.inr (.inl rfl))

end Sys2Proof.Machine
end

section
/-! SUPPORT. Byte streams taken from RXL, told by the blocks between the bytes: a wire image, garbage before it, and any
stream against `decode_one`. -/

namespace Sys2Proof.Machine

/-! ### Turns of RXL over bytes that are all taken -/

/-- The state after RXL handed over the bytes `ws`, with `q` left, and the block became `b`. -/
def State.receivedAll (s : State) (ws q : List Byte) (b : Block) : State :=
  { s with blk := b, rsp := if ws = [] then s.rsp else none, rxq := q, rxLog := s.rxLog ++ ws }

/-- A first byte and the rest of a list leave the state of the whole list. -/
theorem State.receivedAll_cons (s : State) (w : Byte) (ws q q' : List Byte) (b b' : Block) :
    (s.received w q' b).receivedAll ws q b' = s.receivedAll (w :: ws) q b' := by
  simp [State.receivedAll, State.received]

/-- Playing an RXL turn for each byte that is taken; the bytes behind them stay with RXL (U6). -/
theorem playTurns_of_takeAll {P : Params} {b b' : Block} {ws : List Byte} (h : TakeAll P b ws b') {s : State}
    {more : List Byte} (hrst : s.rstN = true) (hparams : s.params = P) (hblk : s.blk = b) (hq : s.rxq = ws ++ more) :
    playTurns (List.replicate ws.length .rxl) s = .next (s.receivedAll ws more b') := by
  induction h generalizing s with
  | nil =>
    have hq : s.rxq = more := hq
    subst hblk hq
    simp [State.receivedAll]
  | @cons _ b₁ _ w ws hfirst _ ih =>
    subst hparams hblk
    rw [List.length_cons, List.replicate_succ,
      playTurns_step (u := s.received w (ws ++ more) b₁) (step_of_takes hrst hq hfirst),
      ih (s := s.received w (ws ++ more) b₁) hrst rfl rfl rfl, State.receivedAll_cons]

/-! ### A wire image, and garbage before it (R164, R165) -/

/-- Bytes stored leave every index behind them as it was. -/
theorem Memory.read?_writeAll_behind (m : Memory) {i j : Nat} (bs : List Byte) (hj : i + bs.length ≤ j) :
    Memory.read? (Memory.writeAll m i bs) j = Memory.read? m j := by
  induction bs generalizing m i with
  | nil => rfl
  | cons v bs ih =>
    rw [List.length_cons] at hj
    rw [Memory.writeAll, ih _ (by omega), Memory.read?_write_other _ _ _ _ (by omega)]

/-- Settles O41: the bytes of the wire image are taken one by one, and the block they leave holds the frame. -/
theorem roundTripOfWireImage : Obligations.RoundTripOfWireImage := by
  intro s p more hwf hrst hphase hpos hmax hq
  have hrun := playTurns_of_takeAll (takeAll_wireImage hwf hphase hpos hmax) hrst rfl rfl hq
  refine ⟨_, hrun, rfl, rfl, rfl, holdsAt_writeAll _ _ _, rfl, rfl, rfl, rfl, ⟨rfl, rfl⟩, .refl s.blk, fun j hj => ?_⟩
  exact Memory.read?_writeAll_behind _ _ (by simp; omega)

/-- Garbage without a start marker is discarded in HUNT. -/
theorem takeAll_garbage {P : Params} {b : Block} {g : List Byte} (hphase : b.decPhase = .hunt)
    (hg : Config.START ∉ g) : TakeAll P b g b := by
  induction g with
  | nil => exact .nil b
  | cons w g ih =>
    obtain ⟨hw, hg⟩ := not_or.1 (mt List.mem_cons.2 hg)
    exact .cons (takes_skip hphase (Ne.symm hw)) (ih hg)

/-- Settles O42: the garbage leaves the block in HUNT, as it was, and the wire image is taken from there. -/
theorem garbageThenFrameIsDecoded : Obligations.GarbageThenFrameIsDecoded := by
  intro s g p more hwf hrst hphase hg hpos hmax hq
  have htaken := (takeAll_garbage hphase hg).append (takeAll_wireImage hwf hphase hpos hmax)
  have hrun := playTurns_of_takeAll htaken hrst rfl rfl hq
  rw [List.length_append] at hrun
  exact ⟨_, hrun, rfl, rfl, rfl, holdsAt_writeAll _ _ _, rfl, rfl⟩

/-! ### Any byte stream, against `decode_one` (R163) -/

/-- The wire bytes `us` carry the payload byte `v`: alone, or behind the escape lead (R157, R159). -/
inductive Carries : List Byte → Byte → Prop where
  | plain {v : Byte} (hv : v ≠ Config.ESC) : Carries [v] v
  | escaped (w : Byte) : Carries [Config.ESC, w] (w ^^^ Config.XMASK)

/-- The payload loop on a stream: a payload byte and the loop on what is left, or the stream ends before the byte does. -/
theorem takePayload_succ_cases (n : Nat) (ws : List Byte) :
    (∃ us v rest, Carries us v ∧ ws = us ++ rest ∧
      takePayload (n + 1) ws = (takePayload n rest).map fun r => (v :: r.1, r.2.1 + us.length, r.2.2)) ∨
    (ws = [] ∨ ws = [Config.ESC]) ∧ takePayload (n + 1) ws = none := by
  match ws with
  | [] => exact .inr ⟨.inl rfl, rfl⟩
  | w :: ws =>
    by_cases hw : w = Config.ESC
    · subst hw
      match ws with
      | [] => exact .inr ⟨.inr rfl, by simp [takePayload]⟩
      | w :: rest =>
        refine .inl ⟨_, _, rest, .escaped w, rfl, ?_⟩
        simp only [takePayload, if_true]
        cases takePayload n rest <;> rfl
    · refine .inl ⟨_, _, ws, .plain hw, rfl, ?_⟩
      simp only [takePayload, if_neg hw]
      cases takePayload n ws <;> rfl

section
variable {P : Params} {b : Block} {len : Byte} {q : List Byte} {m : Memory}

theorem phaseAfter_of_lt (hlt : q.length < len.toNat) : phaseAfter len q = .data := if_neg (Nat.ne_of_lt hlt)

/-- The wire bytes of one payload byte are taken, and the byte stands behind those before it. -/
theorem takeAll_of_carries {us : List Byte} {v : Byte} (h : Carries us v) (hlt : q.length < len.toNat)
    (hcap : len.toNat < P.cap) :
    TakeAll P (b.receiving len q m (phaseAfter len q)) us
      (b.receiving len (q ++ [v]) (Memory.write m (1 + q.length) v) (phaseAfter len (q ++ [v]))) := by
  rw [phaseAfter_of_lt hlt]
  cases h with
  | plain hv => exact .cons (takes_plain hv hlt (by omega)) (.nil _)
  | escaped w =>
    have hsecond := takes_escaped (P := P) (b := b) (m := m) (w ^^^ Config.XMASK) hlt (by omega)
    rw [BitVec.xor_assoc, BitVec.xor_self, BitVec.xor_zero] at hsecond
    exact .cons takes_escape (.cons hsecond (.nil _))

/-- The payload loop that ends with the payload: DEC takes the same bytes, stores the payload and waits for the
checksum. -/
theorem takeAll_of_takePayload_some {n k : Nat} {ws p left : List Byte} (h : takePayload n ws = some (p, k, left))
    (hlen : q.length + n = len.toNat) (hcap : len.toNat < P.cap) :
    ∃ vs, ws = vs ++ left ∧ vs.length = k ∧ p.length = n ∧
      TakeAll P (b.receiving len q m (phaseAfter len q)) vs
        (b.receiving len (q ++ p) (Memory.writeAll m (1 + q.length) p) .ck1) := by
  induction n generalizing ws p k q m with
  | zero =>
    cases h
    have hphase : phaseAfter len q = .ck1 := if_pos hlen
    rw [hphase, List.append_nil]
    exact ⟨[], rfl, rfl, rfl, .nil _⟩
  | succ n ih =>
    obtain ⟨us, v, rest, hus, rfl, hloop⟩ | ⟨-, hnone⟩ := takePayload_succ_cases n ws
    · obtain ⟨⟨p, k, left⟩, hrest, hr⟩ := Option.map_eq_some_iff.1 (hloop.symm.trans h)
      cases hr
      obtain ⟨vs, rfl, rfl, rfl, htaken⟩ := ih (q := q ++ [v]) (m := Memory.write m (1 + q.length) v) hrest
        (by rw [List.length_append, List.length_singleton]; omega)
      rw [List.append_assoc, List.length_append, List.length_singleton, ← Nat.add_assoc] at htaken
      exact ⟨us ++ vs, (List.append_assoc ..).symm, by rw [List.length_append, Nat.add_comm], rfl,
        (takeAll_of_carries hus (by omega) hcap).append htaken⟩
    · exact absurd (hnone.symm.trans h) (by simp)

/-- The payload loop on a stream that ends first: DEC takes all of it and waits inside the frame. -/
theorem takeAll_of_takePayload_none {n : Nat} {ws : List Byte} (h : takePayload n ws = none)
    (hlen : q.length + n = len.toNat) (hcap : len.toNat < P.cap) :
    ∃ q' m' phase, phase ≠ .hold ∧
      TakeAll P (b.receiving len q m (phaseAfter len q)) ws (b.receiving len q' m' phase) := by
  induction n generalizing ws q m with
  | zero => cases h
  | succ n ih =>
    obtain ⟨us, v, rest, hus, rfl, hloop⟩ | ⟨hend, -⟩ := takePayload_succ_cases n ws
    · obtain ⟨q', m', phase, hphase, htaken⟩ := ih (q := q ++ [v]) (m := Memory.write m (1 + q.length) v)
        (Option.map_eq_none_iff.1 (hloop.symm.trans h)) (by rw [List.length_append, List.length_singleton]; omega)
      exact ⟨q', m', phase, hphase, (takeAll_of_carries hus (by omega) hcap).append htaken⟩
    · rw [phaseAfter_of_lt (by omega)]
      obtain rfl | rfl := hend
      · exact ⟨q, m, .data, by simp, .nil _⟩
      · exact ⟨q, m, .esc, by simp, .cons takes_escape (.nil _)⟩

end

/-- The block `b` with a whole frame held in RX: its length byte, payload and two checksum bytes, whatever they are. -/
def Block.judged (b : Block) (len : Byte) (p : List Byte) (c1 c2 : Byte) : Block :=
  { b.receiving len p (Memory.writeAll b.rx 0 (len :: p ++ [c1, c2])) .hold with
    decResult := if pack c1 c2 = fletcher16 (len :: p) then .ok else .ckfail }

/-- The two checksum bytes behind a whole payload. -/
theorem takeAll_checksum {P : Params} (b : Block) {len : Byte} {p : List Byte} (c1 c2 : Byte)
    (hlen : p.length = len.toNat) (hcap : len.toNat + 2 < P.cap) :
    TakeAll P (b.receiving len p (Memory.writeAll b.rx 0 (len :: p)) .ck1) [c1, c2] (b.judged len p c1 c2) := by
  have hrx : Memory.writeAll b.rx 0 (len :: p ++ [c1, c2]) =
      Memory.write (Memory.write (Memory.writeAll b.rx 0 (len :: p)) (len.toNat + 1) c1) (len.toNat + 2) c2 := by
    rw [Memory.writeAll_append, List.length_cons, hlen, Nat.zero_add]
    rfl
  rw [Block.judged, hrx]
  exact .cons (takes_ck1 c1 (by omega)) (.cons (takes_lastCk rfl hcap (Memory.read?_write_same _ _ _)) (.nil _))

/-- A zero length byte sets `zlen` and ends the attempt (R155). -/
theorem takes_zeroLength {P : Params} (b : Block) (hcap : 0 < P.cap) :
    Takes P { b with decPhase := .len } 0x00#8
      { b.receiving 0x00#8 [] (Memory.write b.rx 0 0x00#8) .hunt with zlen := true } :=
  takes_length rfl hcap

/-- A length byte above LMAX is held (R156). -/
theorem takes_overflow {P : Params} (b : Block) {len : Byte} (hcap : 0 < P.cap) (hmax : P.lmax < len.toNat) :
    Takes P { b with decPhase := .len } len
      { b.receiving len [] (Memory.write b.rx 0 len) .hold with decResult := .lenovf } := by
  have hne : len ≠ 0x00#8 := by
    rintro rfl
    exact absurd hmax (Nat.not_lt_zero _)
  have htakes := takes_length (P := P) (b := { b with decPhase := .len }) (w := len) rfl hcap
  rw [Block.judgeLength, if_neg hne, if_pos hmax] at htakes
  exact htakes

/-- The block `b`, with the bytes `rest` left, is as the answer `d` of `decode_one` says; `z` was `zlen` before. -/
structure Reaches (z : Bool) (rest : List Byte) (d : Decoded) (b : Block) : Prop where
  result : b.decResult = d.outcome.result
  hold_iff : b.decPhase = .hold ↔ d.outcome ≠ .pending
  bytes : HoldsAt b.rx 0 d.outcome.rxBytes
  zlen : b.zlen = (z || d.zlen)
  uses_up : d.outcome = .pending → rest = []

/-- At capacities `P`, with `i` bytes of the stream consumed before, DEC takes from `ws` as many bytes as the answer `d`
counts, and they lead from the block `b` to a block that is as `d` says. -/
def Decodes (P : Params) (z : Bool) (b : Block) (i : Nat) (ws : List Byte) (d : Decoded) : Prop :=
  ∃ vs rest b', ws = vs ++ rest ∧ d.consumed = i + vs.length ∧ TakeAll P b vs b' ∧ Reaches z rest d b'

section
variable {P : Params} {z₀ z : Bool} {b b' : Block} {i total : Nat} {ws : List Byte}

theorem Decodes.of_takes {w : Byte} {d : Decoded} (hfirst : Takes P b w b') (h : Decodes P z₀ b' (i + 1) ws d) :
    Decodes P z₀ b i (w :: ws) d := by
  obtain ⟨vs, rest, b'', rfl, hcount, htaken, hend⟩ := h
  exact ⟨w :: vs, rest, b'', rfl, by rw [hcount, List.length_cons]; omega, .cons hfirst htaken, hend⟩

/-- A stream that is taken whole and leaves DEC waiting is PENDING. -/
theorem Decodes.of_pending (htaken : TakeAll P b ws b') (hresult : b'.decResult = .none) (hhold : b'.decPhase ≠ .hold)
    (hzlen : b'.zlen = (z₀ || z)) (htotal : i + ws.length = total) : Decodes P z₀ b i ws ⟨.pending, total, z⟩ :=
  ⟨ws, [], b', (List.append_nil ws).symm, htotal.symm, htaken,
    ⟨hresult, by simp [hhold], fun _ hj => absurd hj (Nat.not_lt_zero _), hzlen, fun _ => rfl⟩⟩

/-- A stream from whose front DEC comes to hold an outcome. -/
theorem Decodes.of_held {vs rest : List Byte} {d : Decoded} (htaken : TakeAll P b vs b')
    (hcount : d.consumed = i + vs.length) (hend : d.outcome ≠ .pending) (hhold : b'.decPhase = .hold)
    (hresult : b'.decResult = d.outcome.result) (hbytes : HoldsAt b'.rx 0 d.outcome.rxBytes)
    (hzlen : b'.zlen = (z₀ || d.zlen)) : Decodes P z₀ b i (vs ++ rest) d :=
  ⟨vs, rest, b', rfl, hcount, htaken,
    ⟨hresult, iff_of_true hhold hend, hbytes, hzlen, fun hpending => absurd hpending hend⟩⟩

/-- From DATA on, with the length byte accepted (R157 to R161). -/
theorem decodes_decodeBody {len : Byte} (hpos : 1 ≤ len.toNat) (hcap : len.toNat + 2 < P.cap)
    (hresult : b.decResult = .none) (hzlen : b.zlen = (z₀ || z)) (htotal : i + ws.length = total) :
    Decodes P z₀ (b.receiving len [] (Memory.write b.rx 0 len) .data) i ws (decodeBody total len i z ws) := by
  have hlen : ([] : List Byte).length + len.toNat = len.toNat := Nat.zero_add _
  rw [← phaseAfter_of_lt (q := []) hpos]
  cases hloop : takePayload len.toNat ws with
  | none =>
    obtain ⟨q, m, phase, hphase, htaken⟩ := takeAll_of_takePayload_none (P := P) hloop hlen (by omega)
    simp only [decodeBody, hloop]
    exact .of_pending htaken hresult hphase hzlen htotal
  | some r =>
    obtain ⟨p, k, left⟩ := r
    obtain ⟨vs, rfl, rfl, hp, htaken⟩ := takeAll_of_takePayload_some (P := P) (b := b) (m := Memory.write b.rx 0 len)
      hloop hlen (by omega)
    match left with
    | [] =>
      simp only [decodeBody, hloop]
      rw [List.append_nil] at htotal ⊢
      exact .of_pending htaken hresult (by simp [Block.receiving]) hzlen htotal
    | [c1] =>
      simp only [decodeBody, hloop]
      exact .of_pending (htaken.append (.cons (takes_ck1 c1 (by omega)) (.nil _))) hresult (by simp [Block.receiving])
        hzlen htotal
    | c1 :: c2 :: rest =>
      simp only [decodeBody, hloop]
      have hsplit : vs ++ c1 :: c2 :: rest = vs ++ [c1, c2] ++ rest := (List.append_assoc vs [c1, c2] rest).symm
      rw [hsplit]
      exact .of_held (htaken.append (takeAll_checksum b c1 c2 hp hcap)) (by rw [List.length_append]; rfl) (by simp)
        rfl rfl (holdsAt_writeAll _ _ _) hzlen

/-- The HUNT and LEN part (R152 to R156): from HUNT, DEC takes from any stream what `decode_one` says. -/
theorem decodes_decodeFrom (hwf : P.wf = true) (hphase : b.decPhase = .hunt) (hresult : b.decResult = .none)
    (hzlen : b.zlen = (z₀ || z)) (htotal : i + ws.length = total) :
    Decodes P z₀ b i ws (decodeFrom P total i z ws) := by
  obtain ⟨hcap, -⟩ := Params.wf_iff.1 hwf
  have hlmax : P.lmax = P.cap - 3 := rfl
  fun_induction decodeFrom P total i z ws generalizing b with
  | case1 i z => exact .of_pending (.nil b) hresult (by simp [hphase]) hzlen htotal
  | case2 i z w =>
    by_cases hw : w = Config.START
    · subst hw
      exact .of_pending (.cons (takes_start hphase) (.nil _)) hresult (by simp) hzlen htotal
    · exact .of_pending (.cons (takes_skip hphase hw) (.nil _)) hresult (by simp [hphase]) hzlen htotal
  | case3 i z ws ih =>
    have hrest := ih (b := { b.receiving 0x00#8 [] (Memory.write b.rx 0 0x00#8) .hunt with zlen := true }) rfl hresult
      (by simp) (by simp only [List.length_cons] at htotal; omega)
    exact .of_takes (takes_start hphase) (.of_takes (takes_zeroLength b (by omega)) hrest)
  | case4 i z len ws hzero hmax =>
    exact .of_held (vs := [Config.START, len])
      (.cons (takes_start hphase) (.cons (takes_overflow b (by omega) hmax) (.nil _))) rfl (by simp) rfl rfl
      (holdsAt_writeAll b.rx 0 [len]) hzlen
  | case5 i z len ws hzero hmax =>
    have hpos : 1 ≤ len.toNat := Nat.pos_of_ne_zero fun hlen => hzero (BitVec.eq_of_toNat_eq hlen)
    exact .of_takes (takes_start hphase) (.of_takes (takes_len b (by omega) hpos (by omega))
      (decodes_decodeBody hpos (by omega) hresult hzlen (by simp only [List.length_cons] at htotal; omega)))
  | case6 i z w len ws hw ih =>
    exact .of_takes (takes_skip hphase hw) (ih hphase hresult hzlen (by simp only [List.length_cons] at htotal ⊢; omega))

end

/-- A byte that is taken writes as `RxlWrites` says. -/
theorem Takes.rxlWrites {P : Params} {b b' : Block} {w : Byte} (h : Takes P b w b') : RxlWrites P w b b' :=
  (rxlByte_cases (s := { State.reset with params := P, blk := b }) h.not_held (h.byte _ rfl rfl)).2

theorem SameCk.trans {b b' b'' : Block} (h : SameCk b b') (h' : SameCk b' b'') : SameCk b b'' := by
  simp_all [SameCk]

theorem SameEnc.trans {b b' b'' : Block} (h : SameEnc b b') (h' : SameEnc b' b'') : SameEnc b b'' := by
  simp_all [SameEnc]

/-- The bytes of RXL leave CK and ENC alone. -/
theorem TakeAll.sameCk_sameEnc {P : Params} {b b' : Block} {ws : List Byte} (h : TakeAll P b ws b') :
    SameCk b b' ∧ SameEnc b b' := by
  induction h with
  | nil b => exact ⟨.refl b, .refl b⟩
  | cons hfirst _ ih => exact ⟨hfirst.rxlWrites.ck_eq.trans ih.1, hfirst.rxlWrites.sameEnc.trans ih.2⟩

/-- Settles O40: the bytes that `decode_one` consumes are taken one by one, to a block that is as it says. -/
theorem rxlStepsComputeDecodeOne : Obligations.RxlStepsComputeDecodeOne := by
  intro s hwf hrst hphase hresult
  obtain ⟨vs, rest, b, hq, hcount, htaken, hend⟩ : Decodes s.params s.blk.zlen s.blk 0 s.rxq (decodeOne s.params s.rxq) :=
    decodes_decodeFrom hwf hphase hresult (by simp) (Nat.zero_add _)
  rw [Nat.zero_add] at hcount
  obtain ⟨hck, henc⟩ := htaken.sameCk_sameEnc
  have hdrop : rest = s.rxq.drop vs.length := by rw [hq, List.drop_left]
  rw [hcount]
  exact ⟨_, playTurns_of_takeAll htaken hrst rfl rfl hq, hdrop, hend.zlen, hend.result, hend.hold_iff, hend.uses_up,
    hend.bytes, hck, henc, rfl, rfl⟩

end Sys2Proof.Machine
end

section
/-! SUPPORT. The device commands and the words that no row of the opcode map accepts: what each answers, and how the STATUS
word is laid out. -/

namespace Sys2Proof.Machine

/-! ### The layout of STATUS (R44) -/

/-- STATUS shows four registers and nothing else. -/
theorem Block.status_congr {b b' : Block} (henc : b.encPhase = b'.encPhase) (hdec : b.decPhase = b'.decPhase)
    (hresult : b.decResult = b'.decResult) (hzlen : b.zlen = b'.zlen) : b.status = b'.status := by
  simp only [Block.status, Block.encBusy, Block.frdy, henc, hdec, hresult, hzlen]

/-- DPH, bits 2..0: the last part of the word. -/
theorem Block.status_dph (b : Block) : b.status.extractLsb' 0 3 = b.decPhase.code := BitVec.extractLsb'_append_eq_right

/-- DRES, bits 4..3: above DPH. -/
theorem Block.status_dres (b : Block) : b.status.extractLsb' 3 2 = b.decResult.code :=
  (BitVec.extractLsb'_append_eq_of_le (by decide)).trans BitVec.extractLsb'_append_eq_right

/-- ZLEN, bit 5. -/
theorem Block.status_zlen (b : Block) : b.status.getLsbD 5 = b.zlen := by
  simp only [Block.status, BitVec.getLsbD_append]
  simp

/-- FRDY, bit 6. -/
theorem Block.status_frdy (b : Block) : b.status.getLsbD 6 = b.frdy := by
  simp only [Block.status, BitVec.getLsbD_append]
  simp

/-- The reserved bit 7. -/
theorem Block.status_bit7 (b : Block) : b.status.getLsbD 7 = false := by
  simp only [Block.status, BitVec.getLsbD_append]
  simp

/-- EPH, bits 10..8: above the five fields in bits 7..0. -/
theorem Block.status_eph (b : Block) : b.status.extractLsb' 8 3 = b.encPhase.code := by
  simp (disch := decide) only [Block.status, BitVec.extractLsb'_append_eq_of_le]
  exact BitVec.extractLsb'_append_eq_right

/-- EBUSY, bit 11. -/
theorem Block.status_ebusy (b : Block) : b.status.getLsbD 11 = b.encBusy := by
  simp only [Block.status, BitVec.getLsbD_append]
  simp

/-- The reserved bits 15..12, above every field. -/
theorem Block.status_bits15to12 (b : Block) : b.status.extractLsb' 12 4 = 0b0000#4 := by
  simp (disch := decide) only [Block.status, BitVec.extractLsb'_append_eq_of_le]
  exact BitVec.extractLsb'_eq_self

/-- With ENC idle and no zero length met, a held frame shows FRDY, its result and the phase HOLD. -/
theorem Block.status_held {b : Block} (hzlen : b.zlen = false) (hidle : b.encPhase = .idle) (hhold : b.decPhase = .hold)
    {r : DecResult} (hresult : b.decResult = r) :
    b.status = Block.status { Block.reset with decPhase := .hold, decResult := r } :=
  Block.status_congr hidle hhold hresult hzlen

/-! ### The words of CFG (R192) -/

theorem hiByte_cfgWord {P : Params} (hwf : P.wf = true) : (hiByte (cfgWord P)).toNat = P.cap - 1 := by
  obtain ⟨hcap, hcap', -, -⟩ := Params.wf_iff.1 hwf
  rw [cfgWord, hiByte_pack, toNat_ofNat_of_lt (by omega)]

theorem loByte_cfgWord {P : Params} (hwf : P.wf = true) : (loByte (cfgWord P)).toNat = P.txcap := by
  obtain ⟨-, -, -, htxcap⟩ := Params.wf_iff.1 hwf
  rw [cfgWord, loByte_pack, toNat_ofNat_of_lt (by omega)]

/-! ### SRST (R191) -/

theorem sameBuffers_softReset (b : Block) : SameBuffers b b.softReset := fun _ => ⟨rfl, rfl⟩

/-- SRST leaves the registers that STATUS shows as a hard reset leaves them. -/
theorem Block.status_softReset (b : Block) : b.softReset.status = Block.reset.status :=
  Block.status_congr rfl rfl rfl rfl

theorem Block.status_reset : Block.reset.status = 0x0000#16 := rfl

/-! ### Device commands (44_device.md) -/

/-- Settles O13: NOP only answers. -/
theorem nopAnswersZero : Obligations.NopAnswersZero := ⟨isZCommand_of_formZ (i := .nop) rfl, fun _ => rfl⟩

/-- Settles O14: the writes of SRST are those of `softReset`, whatever the block holds. -/
theorem srstResetsRegisters : Obligations.SrstResetsRegisters :=
  ⟨isZCommand_of_formZ (i := .srst) rfl, fun s => ⟨respond 0x0000#16 (s.withBlk s.blk.softReset), rfl, rfl,
    sameBuffers_softReset s.blk, s.blk.status_softReset.trans Block.status_reset⟩⟩

/-- Settles O15: each capacity fits the byte that CFG packs it into. -/
theorem cfgAnswersCapacities : Obligations.CfgAnswersCapacities := by
  refine ⟨isZCommand_of_formZ (i := .cfg) rfl, fun s hparams => ?_, fun s hwf => ?_⟩
  · have hword : cfgWord s.params = 0x7FFF#16 := by rw [hparams]; rfl
    rw [← hword]
    rfl
  · have hhi := hiByte_cfgWord hwf
    have hlmax : s.params.cap - 1 + 1 - 3 = s.params.lmax := by
      obtain ⟨hcap, -⟩ := Params.wf_iff.1 hwf
      rw [Nat.sub_add_cancel (by omega), Params.lmax]
    exact ⟨cfgWord s.params, rfl, hhi, loByte_cfgWord hwf, hhi.symm ▸ hlmax⟩

/-- Settles O16: each field of the word is the code of its register, and the examples are words of known fields. -/
theorem statusAnswersStatusWord : Obligations.StatusAnswersStatusWord := by
  refine ⟨isZCommand_of_formZ (i := .status) rfl, fun _ => rfl, fun b =>
    ⟨b.status_dph, b.status_dres, b.status_zlen, b.status_frdy, b.status_bit7, b.status_eph, b.status_ebusy,
      b.status_bits15to12, ?dph_ne_seven, ?eph_ne_seven, Block.status_reset, ?held, ?start,
      ⟨rfl, rfl, rfl, rfl, rfl, rfl, rfl⟩, ⟨rfl, rfl, rfl, rfl, rfl, rfl, rfl⟩, ⟨rfl, rfl, rfl, rfl⟩⟩⟩
  case dph_ne_seven => exact b.status_dph ▸ b.decPhase.code_ne_seven
  case eph_ne_seven => exact b.status_eph ▸ b.encPhase.code_ne_seven
  case held =>
    exact fun hzlen hidle hhold =>
      ⟨Block.status_held hzlen hidle hhold, Block.status_held hzlen hidle hhold, Block.status_held hzlen hidle hhold⟩
  case start =>
    exact fun hzlen hstart hhunt hresult =>
      Block.status_congr (b' := { Block.reset with encPhase := .start }) hstart hhunt hresult hzlen

/-! ### Words that are no command (R194) -/

theorem runWord_of_error {w : Word} {e : DecodeError} (h : decode w = .error e) (s : State) :
    runWord w s = .next (raiseErr .illegal s) := by
  simp [runWord, h]

/-- Settles O8: a word that no row accepts does not decode, and HOST's turn answers it with ERR_ILLEGAL. -/
theorem stepAnswersIllegalWord : Obligations.StepAnswersIllegalWord := by
  intro s w rest hs hrst hnone
  obtain ⟨-, -, -, hrefused⟩ := decodeFollowsOpcodeMap w
  obtain ⟨e, he⟩ := hrefused.1 hnone
  have hbegin : (beginStep rest s).rstN = true := hrst
  calc step s = hostTurn w (beginStep rest s) := step_turn hs
    _ = mapNext (logCommand w) (runWord w (beginStep rest s)) := hostTurn_enabled hbegin
    _ = mapNext (logCommand w) (.next (raiseErr .illegal (beginStep rest s))) := by rw [runWord_of_error he]

end Sys2Proof.Machine
end

section
/-! SUPPORT. The errors of the commands: each answer named by its error code, and that code as a function of the command, the
capacities and the block. -/

namespace Sys2Proof.Machine

/-! ### An answer by its error code (R86, R212) -/

/-- From the state `s` a command came to `t` with the error code `e`: with ERR_OK and data, or with an error, which
writes nothing but the response. -/
inductive AnsweredWith (s : State) : ErrCode → State → Prop where
  | ok (v : Word) (u : State) : AnsweredWith s .ok (respond v u)
  | error {e : ErrCode} (he : e ≠ .ok) : AnsweredWith s e (raiseErr e s)

theorem AnsweredWith.exists_rsp {s t : State} {e : ErrCode} (h : AnsweredWith s e t) :
    ∃ r, t.rsp = some r ∧ r.err = e := by
  cases h with
  | ok v u => exact ⟨_, rfl, rfl⟩
  | error he => exact ⟨_, rfl, rfl⟩

/-! ### The error of a command (R213, R214) -/

/-- The error code a command answers with, the checks in the order of R214. -/
def errorOf (P : Params) (b : Block) : Instr → ErrCode
  | .encClr | .encSend => if b.encPhase ≠ .idle then .busy else .ok
  | .encLoad _ => if b.encPhase ≠ .idle then .busy else if b.txlen.toNat = P.txcap then .full else .ok
  | .encRdbuf k => if P.txcap ≤ k then .range else .ok
  | .decRdbuf k => if P.cap ≤ k then .range else .ok
  | .decNext => if b.decPhase ≠ .hold then .state else .ok
  | .nop | .srst | .cfg | .status | .ckClr | .ckByte _ | .ckRd | .encRdcnt | .encRdck | .decAbort | .decRdck
  | .decRdcnt | .decClrz => .ok

/-- The check for BUSY comes before every other check of the command (R214). -/
theorem answeredWith_of_unlessBusy {s t : State} {k : Result State} {e : ErrCode}
    (hk : k = .ok t → AnsweredWith s e t) (h : settle (unlessBusy s k) = .next t) :
    AnsweredWith s (if s.blk.encPhase ≠ .idle then .busy else e) t := by
  have h := settle_eq_next h
  split
  · next hbusy =>
    cases (unlessBusy_busy k hbusy).symm.trans h
    exact .error (by decide)
  · next hidle => exact hk ((unlessBusy_idle k (not_not.1 hidle)).symm.trans h)

/-- A chain that ends in a response answers ERR_OK. -/
theorem answeredWith_ok_of_onOk {α : Type} {s t : State} {r : Result α} {v : α → Word} {f : α → State}
    (h : onOk r (fun a => .ok (respond (v a) (f a))) = .ok t) : AnsweredWith s .ok t := by
  obtain ⟨a, -, h⟩ := onOk_eq_ok h
  cases h
  exact .ok _ _

/-- A command that checks `c` and then ends in a response answers the error of the check, or ERR_OK. -/
theorem answeredWith_of_check {α : Type} {s t : State} {c : Prop} [Decidable c] {e : ErrCode} (he : e ≠ .ok)
    {r : Result α} {v : α → Word} {f : α → State}
    (h : (if c then .ok (raiseErr e s) else onOk r fun a => .ok (respond (v a) (f a))) = .ok t) :
    AnsweredWith s (if c then e else .ok) t := by
  split at h
  · next hc =>
    cases h
    rw [if_pos hc]
    exact .error he
  · next hc =>
    rw [if_neg hc]
    exact answeredWith_ok_of_onOk h

/-- A command that completes answers with the error code `errorOf` gives it. -/
theorem exec_answeredWith {i : Instr} {s t : State} (h : exec i s = .next t) :
    AnsweredWith s (errorOf s.params s.blk i) t := by
  cases i with
  | nop | srst | cfg | status | ckClr | ckByte | ckRd | encRdcnt | encRdck | decAbort | decRdck | decRdcnt | decClrz =>
    cases h
    exact .ok _ _
  | encClr => exact answeredWith_of_unlessBusy (fun hk => by cases hk; exact .ok _ _) h
  | encLoad d => exact answeredWith_of_unlessBusy (answeredWith_of_check (by decide)) h
  | encSend => exact answeredWith_of_unlessBusy answeredWith_ok_of_onOk h
  | encRdbuf k => exact answeredWith_of_check (by decide) (settle_eq_next h)
  | decRdbuf k => exact answeredWith_of_check (by decide) (settle_eq_next h)
  | decNext =>
    by_cases hhold : s.blk.decPhase = .hold
    · cases (exec_decNext_held hhold).symm.trans h
      rw [errorOf, if_neg (not_not.2 hhold)]
      exact .ok _ _
    · cases (exec_decNext_not_held hhold).symm.trans h
      rw [errorOf, if_pos hhold]
      exact .error (by decide)

/-- Every word answers, a word that is no command with ERR_ILLEGAL (R86, R194). -/
theorem runWord_answeredWith {w : Word} {s t : State} (h : runWord w s = .next t) : ∃ e, AnsweredWith s e t := by
  cases hw : decode w with
  | ok i =>
    rw [runWord, hw] at h
    exact ⟨_, exec_answeredWith h⟩
  | error e =>
    cases (runWord_of_error hw s).symm.trans h
    exact ⟨.illegal, .error (by decide)⟩

/-- Settles O9: an answer with an error is `raiseErr` of it, which writes the response alone. -/
theorem errorsWriteNothing : Obligations.ErrorsWriteNothing := by
  intro w s t h
  obtain ⟨e, hans⟩ := runWord_answeredWith h
  cases hans with
  | ok v u => exact ⟨_, rfl, fun herr => absurd rfl herr⟩
  | error _ => exact ⟨_, rfl, fun _ => ⟨rfl, rfl⟩⟩

/-! ### When each error is answered (R211)

On each command `errorOf` is ERR_OK or a chain of checks, and `ite_eq_iff` says which check gives the code. -/

section
variable {P : Params} {b : Block} {i : Instr}

theorem errorOf_ne_illegal : errorOf P b i ≠ .illegal := by
  cases i <;> simp [errorOf, ite_eq_iff]

theorem errorOf_eq_busy_iff :
    errorOf P b i = .busy ↔ (i = .encClr ∨ i = .encSend ∨ ∃ d, i = .encLoad d) ∧ b.encPhase ≠ .idle := by
  cases i <;> simp [errorOf, ite_eq_iff]

theorem errorOf_eq_full_iff :
    errorOf P b i = .full ↔ (∃ d, i = .encLoad d) ∧ b.encPhase = .idle ∧ b.txlen.toNat = P.txcap := by
  cases i <;> simp [errorOf, ite_eq_iff]

theorem errorOf_eq_range_iff :
    errorOf P b i = .range ↔ (∃ k, i = .encRdbuf k ∧ P.txcap ≤ k) ∨ ∃ k, i = .decRdbuf k ∧ P.cap ≤ k := by
  cases i <;> simp [errorOf, ite_eq_iff]

theorem errorOf_eq_state_iff : errorOf P b i = .state ↔ i = .decNext ∧ b.decPhase ≠ .hold := by
  cases i <;> simp [errorOf, ite_eq_iff]

end

/-- Settles O10: the code of the response is `errorOf`, and each code is its value for the commands and states named. -/
theorem errorsOfEachCommand : Obligations.ErrorsOfEachCommand := by
  intro i s t r h hr
  obtain ⟨r', hr', herr⟩ := (exec_answeredWith h).exists_rsp
  cases hr.symm.trans hr'
  rw [herr]
  exact ⟨errorOf_ne_illegal, errorOf_eq_busy_iff, errorOf_eq_full_iff, errorOf_eq_range_iff, errorOf_eq_state_iff,
    rfl, rfl, rfl, rfl, rfl, rfl⟩

end Sys2Proof.Machine
end

section
/-! SUPPORT. Hard reset and the length of a decode attempt: the block while `rst_n` is low, and how every received byte
brings an attempt nearer to its end. -/

namespace Sys2Proof.Machine

/-! ### A hard reset (R240, R241) -/

theorem step_rstLow {s : State} {rest : List Turn} (hs : s.sched = .rstLow :: rest) :
    step s = .next (hardReset (beginStep rest s)) := step_turn hs

/-- While `rst_n` is low, the block stands still under every turn but the two reset edges (R240, U9). -/
theorem playTurns_inReset {s : State} {turns : List Turn} (hrst : s.rstN = false) (hlow : .rstLow ∉ turns)
    (hhigh : .rstHigh ∉ turns) : playTurns (turns ++ [.rstHigh]) s = .next { s with rsp := none, rstN := true } := by
  induction turns generalizing s with
  | nil => exact playTurns_one .rstHigh s
  | cons turn turns ih =>
    have hwaits := waitingAgentsChangeNothing { s with sched := turn :: (turns ++ [.rstHigh] ++ s.sched) } turn _ rfl
      (.inr (.inr ⟨hrst, (List.ne_of_not_mem_cons hlow).symm, (List.ne_of_not_mem_cons hhigh).symm⟩))
    rw [List.cons_append, playTurns_step (u := { s with rsp := none }) hwaits]
    exact ih (s := { s with rsp := none }) hrst (List.not_mem_of_not_mem_cons hlow) (List.not_mem_of_not_mem_cons hhigh)

/-- Settles O52: the block of a hard reset is `Block.reset`, whatever it was before, and it stays until the release. -/
theorem hardResetClearsBlock : Obligations.HardResetClearsBlock :=
  ⟨fun _ _ hs => ⟨_, step_rstLow hs, rfl, rfl, rfl, rfl, rfl, Block.status_reset⟩, fun _ _ => playTurns_inReset⟩

/-! ### How far a decode attempt still goes (R258) -/

theorem DecPhase.inAttempt_eq_false_iff {p : DecPhase} : p.inAttempt = false ↔ p = .hunt ∨ p = .hold := by
  cases p <;> simp [DecPhase.inAttempt]

section
variable {P : Params} {b : Block}

theorem attemptBudget_len (hphase : b.decPhase = .len) : attemptBudget P b = 1 + 2 * P.lmax + 2 := by
  rw [attemptBudget, hphase]

theorem attemptBudget_pos (hattempt : b.decPhase.inAttempt = true) : 0 < attemptBudget P b := by
  unfold attemptBudget
  split
  case h_1 hphase | h_2 hphase => simp [hphase, DecPhase.inAttempt] at hattempt
  all_goals omega

/-- A judged length byte ends the attempt, or it announces at most LMAX payload bytes (R154 to R156). -/
theorem attemptBudget_judgeLength_lt (w : Byte) (hidx : b.decIdx = 0x00#8) (hlen : b.decLen = w) :
    attemptBudget P (Block.judgeLength P w b) < 1 + 2 * P.lmax + 2 := by
  unfold Block.judgeLength
  split
  · exact Nat.succ_pos _
  · split
    · exact Nat.succ_pos _
    · next hmax =>
      simp only [attemptBudget, hidx, hlen, BitVec.toNat_zero]
      omega

/-- A stored payload byte leaves two bytes for each payload byte to come, and the checksum (R157, R159). -/
theorem attemptBudget_countPayload (v : Byte) (hlt : b.decIdx.toNat < b.decLen.toNat) :
    attemptBudget P (b.countPayload v) = 2 * (b.decLen.toNat - b.decIdx.toNat) := by
  have hidx : (b.decIdx + 1#8).toNat = b.decIdx.toNat + 1 := toNat_add_one (by have := b.decLen.isLt; omega)
  by_cases hlast : b.decIdx.toNat + 1 = b.decLen.toNat
  · simp only [attemptBudget, Block.countPayload_decPhase, if_pos hlast]
    omega
  · simp only [attemptBudget, Block.countPayload_decPhase, if_neg hlast, Block.countPayload_decLen,
      Block.countPayload_decIdx, hidx]
    omega

/-- Every byte received inside an attempt, whatever it is, takes from what the attempt may still receive. -/
theorem RxlWrites.attemptBudget_lt {w : Byte} {b' : Block} (h : RxlWrites P w b b') (hinv : Block.DecInv P b)
    (hattempt : b.decPhase.inAttempt = true) : attemptBudget P b' < attemptBudget P b := by
  cases h with
  | start hphase | skip hphase => simp [hphase, DecPhase.inAttempt] at hattempt
  | length hphase =>
    rw [attemptBudget_len hphase]
    exact attemptBudget_judgeLength_lt w rfl rfl
  | escape hphase =>
    simp only [attemptBudget, hphase]
    omega
  | payload v hphase =>
    rw [attemptBudget_countPayload (b := { b with rx := Memory.write b.rx (1 + b.decIdx.toNat) v }) v
      (hinv.position.idx_lt hphase)]
    obtain hphase | hphase := hphase <;> simp only [attemptBudget, hphase] <;> omega
  | firstCk hphase | lastCk _ hphase => simp [attemptBudget, hphase]

/-- Inside an attempt every byte is taken: LMAX leaves room in RX for the length, the payload and the checksum. -/
theorem exists_takes_of_inAttempt (hinv : Block.DecInv P b) (hcap : 4 ≤ P.cap)
    (hattempt : b.decPhase.inAttempt = true) (w : Byte) : ∃ b', Takes P b w b' := by
  have hroom (hframe : b.decPhase.inFrame = true) : b.decLen.toNat + 2 < P.cap := by
    have hlen : b.decLen.toNat ≤ P.cap - 3 := hinv.decLen_le hframe
    omega
  have hidx := hinv.decIdx_le
  cases hphase : b.decPhase with
  | hunt | hold => simp [hphase, DecPhase.inAttempt] at hattempt
  | len => exact ⟨_, takes_length hphase (by omega)⟩
  | data =>
    have hroom := hroom (by rw [hphase]; rfl)
    by_cases hw : w = Config.ESC
    · subst hw
      exact ⟨_, takes_lead hphase⟩
    · exact ⟨_, takes_payload (by omega) (.inl ⟨hphase, hw, rfl⟩)⟩
  | esc =>
    have hroom := hroom (by rw [hphase]; rfl)
    exact ⟨_, takes_payload (by omega) (.inr ⟨hphase, rfl⟩)⟩
  | ck1 =>
    have hroom := hroom (by rw [hphase]; rfl)
    exact ⟨_, takes_firstCk hphase (by omega)⟩
  | ck2 =>
    obtain ⟨hi, hread⟩ := hinv.position.ck1_stored hphase
    exact ⟨_, takes_lastCk hphase (hroom (by rw [hphase]; rfl)) hread⟩

/-- As many bytes as the budget allows contain, from their first on, some that take the decoder out of its attempt. -/
theorem exists_takeAll_ending (hcap : 4 ≤ P.cap) (ws : List Byte) (hinv : Block.DecInv P b)
    (hws : attemptBudget P b ≤ ws.length) : ∃ vs rest b', ws = vs ++ rest ∧ vs.length ≤ attemptBudget P b ∧
      TakeAll P b vs b' ∧ b'.decPhase.inAttempt = false := by
  induction ws generalizing b with
  | nil =>
    refine ⟨[], [], b, rfl, Nat.zero_le _, .nil b, Bool.eq_false_iff.2 fun hattempt => ?_⟩
    exact Nat.not_lt.2 hws (attemptBudget_pos hattempt)
  | cons w ws ih =>
    cases hattempt : b.decPhase.inAttempt with
    | false => exact ⟨[], w :: ws, b, rfl, Nat.zero_le _, .nil b, hattempt⟩
    | true =>
      obtain ⟨b', hfirst⟩ := exists_takes_of_inAttempt hinv hcap hattempt w
      have hless := hfirst.rxlWrites.attemptBudget_lt hinv hattempt
      rw [List.length_cons] at hws
      obtain ⟨vs, rest, b'', rfl, hvs, hrest, hend⟩ := ih (hfirst.rxlWrites.keeps_decInv hinv) (by omega)
      exact ⟨w :: vs, rest, b'', rfl, by rw [List.length_cons]; omega, .cons hfirst hrest, hend⟩

end

/-- Settles O44: in LEN the budget is the bound of R258, and an attempt that is over has taken a byte. -/
theorem attemptEndsInTime : Obligations.AttemptEndsInTime := by
  intro s hinv hrst hphase hq
  obtain ⟨-, -, hdec⟩ := Block.inv_iff.1 hinv.block
  obtain ⟨hcap, -⟩ := Params.wf_iff.1 hinv.params_wf
  rw [← attemptBudget_len hphase] at hq ⊢
  obtain ⟨vs, rest, b, hsplit, hvs, htaken, hend⟩ := exists_takeAll_ending hcap s.rxq hdec hq
  refine ⟨vs.length, _, ?_, hvs, playTurns_of_takeAll htaken hrst rfl rfl hsplit,
    DecPhase.inAttempt_eq_false_iff.1 hend, by rw [hsplit, List.drop_left]; rfl⟩
  cases htaken with
  | nil => simp [hphase, DecPhase.inAttempt] at hend
  | cons => exact Nat.succ_pos _

end Sys2Proof.Machine
end
